-- ==== Sys2Proof/Word.lean ====
section
/-! DEFINITION. The unit of transfer, storage and comparison of this hardware: the byte (R14, R44, R48). -/

namespace Sys2Proof

/-- A byte, an unsigned integer 0 to 255 (R14). -/
abbrev Byte := BitVec 8

end Sys2Proof
end

