-- ==== Sys2Proof/Config.lean ====
section
/-! DEFINITION. The constants of R9 and R10, the implementation parameters of R11, and the one open parameter that is
not held in State. -/

namespace Sys2Proof.Config

/-- Start sentinel, first byte of every frame (R9). -/
@[simp] abbrev START : Byte := 0x8A#8

/-- Stop sentinel, last byte of every frame (R9). -/
@[simp] abbrev STOP : Byte := 0x51#8

/-- Largest payload length in bytes (R9). -/
@[simp] abbrev MAX_PAYLOAD : Nat := 16

/-- Smallest length DECODE accepts as complete (R9). -/
@[simp] abbrev MIN_FRAME : Nat := 3

/-- Exclusive upper bound of a tool id (R9). -/
@[simp] abbrev MAX_TOOL_ID : Int := 7

/-- Payload length of ToolName (R9). -/
@[simp] abbrev TOOL_NAME_LEN : Nat := 16

/-- Payload length of RfidValue (R9; the spec's decision D18 keeps 4, log 25). -/
@[simp] abbrev RFID_LEN : Nat := 4

/-- Number of registry entries (R9; the spec's decision D9 takes seven, log 25). -/
@[simp] abbrev N_TYPES : Nat := 7

/-- Largest frame length (R10). -/
@[simp] abbrev MAX_FRAME : Nat := MAX_PAYLOAD + 3

/-- The ASCII space (R10; the value is general knowledge G1, log 27). -/
@[simp] abbrev PAD : Byte := 0x20#8

/-- Width of the parser state register in bits (R11, decision D2, log 29). -/
@[simp] abbrev PSTATE_WIDTH : Nat := 2

/-- Largest value of the counter `remaining` (R11). -/
@[simp] abbrev REMAINING_MAX : Nat := 16

/-- Capacity of the accumulation buffer in bytes (R11). -/
@[simp] abbrev BUF_CAP : Nat := MAX_FRAME

/-- EMPTY_NAME_OK, left OPEN by R11 and R171 (D15): whether `setToolName` accepts the empty name. No body: a claim about
the hardware holds for both values (log 9). -/
opaque emptyNameOk : Bool

end Sys2Proof.Config
end

