-- ==== Sys2Proof/Machine/Names.lean ====
section
/-! DEFINITION. The closed sets of names the spec uses: message types, directions, Arm States, parser states, errors, and
the shape of a result. -/

namespace Sys2Proof.Machine

/-- The seven message types (R63). -/
inductive TypeName where
  | toolId | toolName | followModeEnable | rfidValid | batteryLevel | armStatus | rfidValue
  deriving DecidableEq, Repr

/-- Originator of a message type: `dev` is sent by this block, `per` is received by it (R18, C2). -/
inductive Direction where
  | dev | per
  deriving DecidableEq, Repr

/-- The value domain of a payload, as the registry records it (R63, R85). -/
inductive ValueDomain where
  | int (lo hi : Nat) | text | bool | armState | rawBytes
  deriving DecidableEq, Repr

/-- The closed enumeration of peripheral states (R70). -/
inductive ArmState where
  | idle | ready | closed | display
  deriving DecidableEq, Repr

/-- The parser state register's values (R21). -/
inductive PState where
  | idle | readingHeader | readingPayload | readingFooter
  deriving DecidableEq, Repr

/-- The eight named errors and no others (R185). -/
inductive ErrorName where
  | invalidFrameStart | invalidFrameEnd | incompleteFrame | invalidPayloadLength | unknownMessageType
  | invalidData | payloadTooLong | uartError
  deriving DecidableEq, Repr

/-- The two shapes of a result, `ok(v)` and `err(E)` (R16). -/
inductive Result (α : Type) where
  | ok (v : α)
  | err (e : ErrorName)
  deriving DecidableEq, Repr

end Sys2Proof.Machine
end

