-- ==== Sys2Proof/Machine/Registry.lean ====
section
/-! DEFINITION. The Message Type Registry: a constant table of plain records, read by LOOKUP (R26, R85 to R95). -/

namespace Sys2Proof.Machine

/-- The record the registry holds for a type (R26, R85). -/
structure Descriptor where
  name : TypeName
  dir : Direction
  length : Nat
  domain : ValueDomain
  deriving DecidableEq, Repr

/-- `code(T)`: the type code, well defined because names are distinct (R63, R86). -/
def TypeName.code : TypeName → Byte
  | .toolId => 0x01#8
  | .toolName => 0x02#8
  | .followModeEnable => 0x04#8
  | .rfidValid => 0x08#8
  | .batteryLevel => 0x81#8
  | .armStatus => 0x82#8
  | .rfidValue => 0x84#8

/-- The seven entries (R85, R87 to R93; seven and not eight by C1, log 25). -/
def registry : List Descriptor :=
  [ ⟨.toolId, .dev, 1, .int 1 6⟩,
    ⟨.toolName, .dev, Config.TOOL_NAME_LEN, .text⟩,
    ⟨.followModeEnable, .dev, 1, .bool⟩,
    ⟨.rfidValid, .dev, 1, .bool⟩,
    ⟨.batteryLevel, .per, 1, .int 0 255⟩,
    ⟨.armStatus, .per, 1, .armState⟩,
    ⟨.rfidValue, .per, Config.RFID_LEN, .rawBytes⟩ ]

/-- LOOKUP: the descriptor stored for code `c`, or `none` (R85, R94). -/
def lookup (c : Byte) : Option Descriptor :=
  registry.find? fun T => T.name.code == c

end Sys2Proof.Machine
end

