-- ==== Sys2Proof/Machine/Codec.lean ====
section
/-! DEFINITION. The Frame Codec: ENCODE and DECODE, pure functions of their operands (R100, R106). -/

namespace Sys2Proof.Machine

/-- `f[i..j]`: from index `i` up to and excluding index `j` (R15). -/
def slice (f : List Byte) (i j : Nat) : List Byte :=
  (f.take j).drop i

/-- ENCODE (R100 to R105): unknown code, then payload too long, then wrong length (the spec's order D7, log 17). -/
def encodeFrame (c : Byte) (p : List Byte) : Result (List Byte) :=
  match lookup c with
  | none => .err .unknownMessageType
  | some T =>
    if p.length > Config.MAX_PAYLOAD then .err .payloadTooLong
    else if p.length ≠ T.length then .err .invalidData
    else .ok ([Config.START, c] ++ p ++ [Config.STOP])

/-- DECODE (R106 to R113): length, start, stop, type, payload length, and the first check to fail names the error (the
spec's order D6, log 16). -/
def decodeFrame (f : List Byte) : Result (Descriptor × List Byte) :=
  let n := f.length
  if n < Config.MIN_FRAME then .err .incompleteFrame
  else if f[0]? ≠ some Config.START then .err .invalidFrameStart
  else if f[n - 1]? ≠ some Config.STOP then .err .invalidFrameEnd
  else match f[1]?.bind lookup with
    | none => .err .unknownMessageType
    | some T =>
      if n - 3 ≠ T.length then .err .invalidPayloadLength
      else .ok (T, slice f 2 (n - 1))

/-- The predicate ValidFrame (R77). -/
def validFrame (f : List Byte) : Bool :=
  decide (Config.MIN_FRAME ≤ f.length) && f[0]? == some Config.START && f[f.length - 1]? == some Config.STOP &&
    match f[1]?.bind lookup with
    | none => false
    | some T => f.length - 3 == T.length

end Sys2Proof.Machine
end

