-- ==== Sys2Proof/Machine/Flags.lean ====
section
/-! DEFINITION. The hardware has no status flags, condition codes or sticky error bits (R24). This file holds the tests
its operations make and the status number the spec gives an error. -/

namespace Sys2Proof.Machine

/-- The status number of an error, 1 to 8 in taxonomy order; 0 is "no error" (R194, the spec's own numbers D11, log 31). -/
def ErrorName.ordinal : ErrorName → Nat
  | .invalidFrameStart => 1
  | .invalidFrameEnd => 2
  | .incompleteFrame => 3
  | .invalidPayloadLength => 4
  | .unknownMessageType => 5
  | .invalidData => 6
  | .payloadTooLong => 7
  | .uartError => 8

/-- The status number of a result (R194). -/
def Result.status {α : Type} : Result α → Nat
  | .ok _ => 0
  | .err e => e.ordinal

/-- The width-2 code of a parser state (R21, the spec's own choice D2, log 29). -/
def PState.code : PState → BitVec Config.PSTATE_WIDTH
  | .idle => 0
  | .readingHeader => 1
  | .readingPayload => 2
  | .readingFooter => 3

/-- `0 < id < MAX_TOOL_ID`, a comparison of integers (R166; any integer by D17, log 20). -/
def toolIdValid (id : Int) : Bool :=
  decide (0 < id) && decide (id < Config.MAX_TOOL_ID)

/-- A character code is `alnum`: ASCII digit or letter (R169; D14 and G1, logs 19 and 27). -/
def alnum (ch : Nat) : Bool :=
  (decide (0x30 ≤ ch) && decide (ch ≤ 0x39)) || (decide (0x41 ≤ ch) && decide (ch ≤ 0x5A)) ||
    (decide (0x61 ≤ ch) && decide (ch ≤ 0x7A))

/-- The name is accepted: every character of it is `alnum`, those beyond the sixteenth included (R169, D16), and it is not
empty unless the open parameter allows it (R171). -/
def toolNameValid (emptyOk : Bool) (name : List Nat) : Bool :=
  (emptyOk || !name.isEmpty) && name.all alnum

end Sys2Proof.Machine
end

