-- ==== Sys2Proof/Machine/Operands.lean ====
section
/-! DEFINITION. How a payload value is built from and into bytes, one function per value domain (R67 to R71). The spec
puts these conversions at the callers of the codec (D32). -/

namespace Sys2Proof.Machine

/-- Integer domain, value to payload: one byte (R67). Callers pass 1 to 6 only (R166). -/
def intPayload (id : Int) : List Byte :=
  [BitVec.ofInt 8 id]

/-- Integer domain, byte to value: unsigned (R67, R158). -/
def level (v : Byte) : Nat :=
  v.toNat

/-- Boolean domain: 0x01 for true, 0x00 for false (R68). -/
def boolByte (b : Bool) : Byte :=
  if b then 0x01#8 else 0x00#8

/-- Text domain: the first 16 character codes, padded on the right with PAD to 16 bytes (R69, R170). -/
def pad16 (name : List Nat) : List Byte :=
  let cut := (name.take Config.TOOL_NAME_LEN).map (BitVec.ofNat 8)
  cut ++ List.replicate (Config.TOOL_NAME_LEN - cut.length) Config.PAD

/-- Arm State domain, byte to value: the whole byte is matched (R70, R160; D27, log 26). -/
def armState (v : Byte) : Option ArmState :=
  if v = 0x01#8 then some .idle
  else if v = 0x02#8 then some .ready
  else if v = 0x04#8 then some .closed
  else if v = 0x08#8 then some .display
  else none

/-- Arm State domain, value to byte (R70). -/
def ArmState.byte : ArmState → Byte
  | .idle => 0x01#8
  | .ready => 0x02#8
  | .closed => 0x04#8
  | .display => 0x08#8

/-- The character of a digit value 0 to 15 (R157; the characters are general knowledge G2, log 27). -/
def hexDigit (d : BitVec 4) : Char :=
  match d.toNat with
  | 0 => '0' | 1 => '1' | 2 => '2' | 3 => '3' | 4 => '4' | 5 => '5' | 6 => '6' | 7 => '7'
  | 8 => '8' | 9 => '9' | 10 => 'a' | 11 => 'b' | 12 => 'c' | 13 => 'd' | 14 => 'e' | _ => 'f'

/-- Raw identifier domain: two lowercase hexadecimal characters per byte, first byte first, high nibble first (R71, R157). -/
def hexString : List Byte → List Char
  | [] => []
  | b :: rest => hexDigit (b.extractLsb' 4 4) :: hexDigit (b.extractLsb' 0 4) :: hexString rest

end Sys2Proof.Machine
end

