-- ==== Sys2Proof/Machine/State.lean ====
section
/-! DEFINITION. The state: the parser sessions, which are all the state the hardware has (R20, R29), and beside them the
model's own records of the host (its calls still to make, what it was told). Plain data throughout. -/

namespace Sys2Proof.Machine

/-- The accumulation buffer, the hardware's only memory: index `i` of the list is address `i`, so the addresses are
0, 1, 2, … without a gap and two equal buffers are equal data (R40, R42; log 23). -/
abbrev Memory := List Byte

/-- A parser session: its three registers (R20). -/
structure Session where
  /-- The parser state register (R21). -/
  pstate : PState
  /-- The remaining-byte counter (R22). -/
  remaining : Nat
  /-- The accumulation buffer (R23). -/
  buf : Memory
  deriving DecidableEq, Repr

/-- A session at creation (R32; `remaining = 0` and `buf = []` are the spec's decisions D3 and D4, log 6). -/
def Session.new : Session := ⟨.idle, 0, []⟩

/-- Why something was logged (R31; the reasons are the spec's own labels, D12, log 24). -/
inductive LogReason where
  | unknownTypeAtHeader (c : Byte)
  | decodeFailed (e : ErrorName)
  | dispatchFailed (e : ErrorName)
  | noHandler (c : Byte)
  deriving DecidableEq, Repr

/-- What the hardware does to the host (R31). -/
inductive Event where
  /-- `onRfidReceived(hexString)` (R156). -/
  | rfidReceived (h : List Char)
  /-- `onBatteryLevel(level)` (R158). -/
  | batteryLevel (n : Nat)
  /-- `onArmStateChanged(state)` (R159). -/
  | armStateChanged (a : ArmState)
  | log (r : LogReason)
  /-- `transmit(frameBytes)` and the Boolean it answered (R177). -/
  | transmit (f : List Byte) (ok : Bool)
  deriving DecidableEq, Repr

/-- Who emitted an event: the session of a link, or a command, which belongs to no session (R37, R180; log 14). -/
inductive Origin where
  | link (k : Nat)
  | command
  deriving DecidableEq, Repr

/-- One entry of the output trace. -/
structure Record where
  origin : Origin
  event : Event
  deriving DecidableEq, Repr

/-- What a call gave back to the host (log 15). FEED gives nothing back (R120). -/
inductive Return where
  /-- The result of one of the four commands (R165). -/
  | command (r : Result Unit)
  /-- The answer of LOOKUP (R85). -/
  | lookup (r : Option Descriptor)
  /-- The result of ENCODE (R100). -/
  | encode (r : Result (List Byte))
  /-- The result of DECODE (R106). -/
  | decode (r : Result (Descriptor × List Byte))
  /-- The number of the link whose session was created (R220). -/
  | created (k : Nat)
  deriving DecidableEq, Repr

/-- What the host does to the hardware (R30, R206). The Boolean `answer` of a command is what the transmit capability
will answer if the command calls it: a free input (R177, D19; log 8). -/
inductive HostCall where
  /-- Bytes delivered to link `k`, in arrival order; a delivery may have any size (R47, R143). -/
  | deliver (k : Nat) (bytes : List Byte)
  /-- Bytes `b` delivered to link `k` while the feeding of `a` to it has not ended: another thread, or a handler feeding
  its own session (R53, R230, R239; log 11). -/
  | overlap (k : Nat) (a b : List Byte)
  /-- `setToolId(id)` (R166). -/
  | setToolId (id : Int) (answer : Bool)
  /-- `setToolName(name)`, the name as character codes (R168). -/
  | setToolName (name : List Nat) (answer : Bool)
  /-- `setFollowMode(enabled)` (R172). -/
  | setFollowMode (enabled : Bool) (answer : Bool)
  /-- `setRfidValidity(valid)` (R173). -/
  | setRfidValidity (valid : Bool) (answer : Bool)
  /-- A new link and its session (R220). -/
  | createSession
  /-- The end of link `k`: its session is dropped with what it holds (R222; log 7). -/
  | dropSession (k : Nat)
  /-- A direct call of LOOKUP (R85). -/
  | lookup (c : Byte)
  /-- A direct call of ENCODE (R100). -/
  | encode (c : Byte) (p : List Byte)
  /-- A direct call of DECODE (R106). -/
  | decode (f : List Byte)
  deriving DecidableEq, Repr

/-- The machine. -/
structure State where
  /-- The session of each link; `none` when the link has ended (R20, R37, R222). -/
  sessions : List (Option Session)
  /-- The MODEL's own: the link whose session FEED is called on (log 3). -/
  link : Nat
  /-- The MODEL's own: the calls the host still makes, oldest first (log 4). -/
  pending : List HostCall
  /-- The MODEL's own: the output trace, oldest first (R31; log 14). -/
  trace : List Record
  /-- The MODEL's own: what calls gave back, oldest first (log 15). -/
  returns : List Return
  deriving DecidableEq, Repr

/-- Why the machine stops. No error of the hardware stops it (R202); this is a call the hardware cannot be given. -/
inductive Fault where
  /-- Raised by a delivery to, or the drop of, link `k` when it has no session: a session is created before its first byte
  is fed and is gone when its link ends (R222, R225). Safe: the model stops and claims nothing (log 13). -/
  | noSession (k : Nat)
  deriving DecidableEq, Repr

/-- What the model gives no meaning. -/
inductive Refusal where
  /-- An instruction without a meaning; raised by no arm of exec. Safe. -/
  | notModelled (mnemonic : String)
  /-- Raised by FEED on a session that is not well formed: the spec gives such a session no meaning and no run reaches it
  (R35, D31). Safe (log 12). -/
  | sessionNotWellFormed
  /-- Raised by overlapping FEEDs on one session, which the source calls undefined (R53, R230, R239). Safe (log 11). -/
  | overlappingFeeds
  deriving DecidableEq, Repr

/-- Right after reset: one session just created (R32, R220, R221), no call made yet (logs 4, 6 and 10). -/
def State.reset : State :=
  { sessions := [some Session.new], link := 0, pending := [], trace := [], returns := [] }

/-- The answer of every operation of the machine. -/
abbrev Outcome := Host.Outcome State Fault Refusal

end Sys2Proof.Machine
end

