-- ==== Sys2Proof/Machine/Ops.lean ====
section
/-! DEFINITION. The named operations over the buffer, the session registers and the state, and what an error does. -/

namespace Sys2Proof.Machine

/-! The buffer (R40 to R42). -/

/-- Start: a fresh buffer holding one byte (R41, R122). -/
def Memory.start (b : Byte) : Memory := [b]

/-- Append one byte at the end, the only write there is (R16, R41). -/
def Memory.append (m : Memory) (b : Byte) : Memory := m ++ [b]

/-- Clear (R41, R132). -/
def Memory.clear : Memory := []

/-- The byte at an address; nothing at or past the length, where MemRead is not defined (R16). -/
def Memory.read (m : Memory) (a : Nat) : Option Byte := m[a]?

/-- The buffer as address and byte pairs. -/
def Memory.cells (m : Memory) : List Host.Cell :=
  m.zipIdx.map fun c => (c.2, c.1)

/-- The form of a buffer between steps: its cells have strictly rising addresses, and it does not exceed its capacity
(R11, R23, R50). -/
def Memory.wf (m : Memory) : Bool :=
  decide (m.cells.Pairwise fun x y => x.1 < y.1) && decide (m.length ≤ Config.BUF_CAP)

/-! The session registers. -/

/-- The append every reading state makes (R123 to R128). -/
def Session.append (ss : Session) (b : Byte) : Session :=
  { ss with buf := Memory.append ss.buf b }

/-- The return to Idle that ends every frame attempt (R132). -/
def Session.endAttempt (ss : Session) : Session :=
  { ss with pstate := .idle, remaining := 0, buf := Memory.clear }

/-- TAKING AN ERROR inside FEED: one Log, no handler, the frame dropped, the session back in Idle (R131, R199). Nothing is
saved (R200) and there is no return operation beside it (R201): the next byte is handled by the Idle rules. -/
def takeError (ss : Session) (r : LogReason) : Session × List Event :=
  (ss.endAttempt, [.log r])

/-! The state. -/

/-- The session of link `k`, if it has one. -/
def State.session? (s : State) (k : Nat) : Option Session :=
  (s.sessions[k]?).join

/-- Write the session of link `k`. -/
def State.setSession (s : State) (k : Nat) (ss : Session) : State :=
  { s with sessions := s.sessions.set k (some ss) }

/-- `emit`: append events to the output trace, in order (R16, R31). -/
def State.emit (s : State) (o : Origin) (es : List Event) : State :=
  { s with trace := s.trace ++ es.map fun e => ⟨o, e⟩ }

/-- Give a call's result to the host. An error of the transmit side goes nowhere else (R198). -/
def State.give (s : State) (r : Return) : State :=
  { s with returns := s.returns ++ [r] }

/-- The trace of one origin: the spec keeps one trace per session (R37, D21). -/
def State.traceOf (s : State) (o : Origin) : List Event :=
  (s.trace.filter fun r => r.origin == o).map Record.event

/-- One byte of a link's buffer. -/
def State.readByte (s : State) (k a : Nat) : Option Byte :=
  (s.session? k).bind fun ss => Memory.read ss.buf a

end Sys2Proof.Machine
end

