-- ==== Sys2Proof/Machine/Commands.lean ====
section
/-! DEFINITION. The Outbound Command API: validate, encode, hand to the transmit capability (R165 to R182). No command
reads or writes a session (R180). `answer` is what the capability answers if it is called (R177, log 8). -/

namespace Sys2Proof.Machine

/-- SEND (R165, R177, R178). -/
def send (c : Byte) (p : List Byte) (answer : Bool) (s : State) : State :=
  match encodeFrame c p with
  | .err e => s.give (.command (.err e))
  | .ok f => (s.emit .command [.transmit f answer]).give (.command (if answer then .ok () else .err .uartError))

/-- `setToolId(id)` (R166, R167). -/
def setToolId (id : Int) (answer : Bool) (s : State) : State :=
  if toolIdValid id then send TypeName.toolId.code (intPayload id) answer s
  else s.give (.command (.err .invalidData))

/-- `setToolName(name)` for a value of the open parameter EMPTY_NAME_OK (R168 to R171). -/
def setToolName (emptyOk : Bool) (name : List Nat) (answer : Bool) (s : State) : State :=
  if toolNameValid emptyOk name then send TypeName.toolName.code (pad16 name) answer s
  else s.give (.command (.err .invalidData))

/-- `setFollowMode(enabled)` (R172). -/
def setFollowMode (enabled : Bool) (answer : Bool) (s : State) : State :=
  send TypeName.followModeEnable.code [boolByte enabled] answer s

/-- `setRfidValidity(valid)` (R173). -/
def setRfidValidity (valid : Bool) (answer : Bool) (s : State) : State :=
  send TypeName.rfidValid.code [boolByte valid] answer s

end Sys2Proof.Machine
end

