-- ==== Sys2Proof/Syntax.lean ====
section
/-! DEFINITION. The rows of spec/opcode_table.json as one inductive. A frame row carries its payload bytes as the table's
letters give them; a payload-byte row and a sentinel row are one fixed byte (R12, R60, R68, R70, R73). -/

namespace Sys2Proof

/-- One constructor per row of spec/opcode_table.json. -/
inductive Instr where
  /-- TOOL_ID: `8A 01 v 51` (R87). -/
  | toolId (v : Byte)
  /-- TOOL_NAME: `8A 02`, sixteen payload bytes, `51` (R88). -/
  | toolName (p : List Byte)
  /-- FOLLOW_MODE_ENABLE: `8A 04 v 51` (R89). -/
  | followModeEnable (v : Byte)
  /-- RFID_VALID: `8A 08 v 51` (R90). -/
  | rfidValid (v : Byte)
  /-- BATTERY_LEVEL: `8A 81 v 51` (R91). -/
  | batteryLevel (v : Byte)
  /-- ARM_STATUS: `8A 82 v 51` (R92). -/
  | armStatus (v : Byte)
  /-- RFID_VALUE: `8A 84`, four payload bytes, `51` (R93). -/
  | rfidValue (p : List Byte)
  /-- ARMSTATE_IDLE: the payload byte 0x01 (R70, R160). -/
  | armstateIdle
  /-- ARMSTATE_READY: the payload byte 0x02 (R70, R160). -/
  | armstateReady
  /-- ARMSTATE_CLOSED: the payload byte 0x04 (R70, R160). -/
  | armstateClosed
  /-- ARMSTATE_DISPLAY: the payload byte 0x08 (R70, R160). -/
  | armstateDisplay
  /-- BOOL_TRUE: the payload byte 0x01 (R68). -/
  | boolTrue
  /-- BOOL_FALSE: the payload byte 0x00 (R68). -/
  | boolFalse
  /-- START: the sentinel 0x8A (R73). -/
  | start
  /-- STOP: the sentinel 0x51 (R73). -/
  | stop
  deriving DecidableEq, Repr

end Sys2Proof
end

