-- ==== Sys2Proof/WellFormed.lean ====
section
/-! DEFINITION. When a term of Instr stands for a row of the table: its payload has the length the registry fixes for the
type (R62). Payload values are not restricted: a frame is valid whatever they are (R77). -/

namespace Sys2Proof

/-- The invariant of a valid frame, `len(PAYLOAD) == registry[TYPE].length` (R62). The one-byte payloads hold it by their
type. -/
def Instr.wf : Instr → Bool
  | .toolName p => p.length == Config.TOOL_NAME_LEN
  | .rfidValue p => p.length == Config.RFID_LEN
  | .toolId _ | .followModeEnable _ | .rfidValid _ | .batteryLevel _ | .armStatus _ => true
  | .armstateIdle | .armstateReady | .armstateClosed | .armstateDisplay => true
  | .boolTrue | .boolFalse | .start | .stop => true

end Sys2Proof
end

