-- ==== Sys2Proof/Decode.lean ====
section
/-! DEFINITION. Bytes to a row of spec/opcode_table.json and back. The decoder is written from the table's rows and not
from DECODE, so that the two can be held against each other. It is total and rejects by name. -/

namespace Sys2Proof

/-- Why a byte sequence is no row of the table. -/
inductive Reject where
  /-- A structural error of R107 to R111. -/
  | error (e : Machine.ErrorName)
  /-- A single byte that is neither a sentinel nor a payload byte the table lists. It is no illegal byte (R74): the
  machine feeds it like any other. -/
  | notATableByte (b : Byte)
  deriving DecidableEq, Repr

/-- The decoder's answer. -/
inductive Decoded where
  | instr (i : Instr)
  | rejected (r : Reject)
  deriving DecidableEq, Repr

/-- A frame row with one payload byte. -/
def decodeOne (mk : Byte → Instr) : List Byte → Decoded
  | [v] => .instr (mk v)
  | _ => .rejected (.error .invalidPayloadLength)

/-- A frame row with `n` payload bytes. -/
def decodeMany (n : Nat) (mk : List Byte → Instr) (p : List Byte) : Decoded :=
  if p.length = n then .instr (mk p) else .rejected (.error .invalidPayloadLength)

/-- The frame rows by TYPE byte, all eight bits compared (R64); `p` is everything between TYPE and the last byte (R76). -/
def decodeBody (c : Byte) (p : List Byte) : Decoded :=
  if c = 0x01#8 then decodeOne .toolId p
  else if c = 0x02#8 then decodeMany 16 .toolName p
  else if c = 0x04#8 then decodeOne .followModeEnable p
  else if c = 0x08#8 then decodeOne .rfidValid p
  else if c = 0x81#8 then decodeOne .batteryLevel p
  else if c = 0x82#8 then decodeOne .armStatus p
  else if c = 0x84#8 then decodeMany 4 .rfidValue p
  else .rejected (.error .unknownMessageType)

/-- The one-byte rows. 0x01 is both ARMSTATE_IDLE and BOOL_TRUE in the table; it reads as ARMSTATE_IDLE, and the two have
the same effect (DESIGN CHOICE, log 2). -/
def decodeByte (b : Byte) : Decoded :=
  if b = 0x8A#8 then .instr .start
  else if b = 0x51#8 then .instr .stop
  else if b = 0x01#8 then .instr .armstateIdle
  else if b = 0x02#8 then .instr .armstateReady
  else if b = 0x04#8 then .instr .armstateClosed
  else if b = 0x08#8 then .instr .armstateDisplay
  else if b = 0x00#8 then .instr .boolFalse
  else .rejected (.notATableByte b)

/-- The decoder on any bytes, first byte on the wire first (R44). -/
def decode : List Byte → Decoded
  | [] => .rejected (.error .incompleteFrame)
  | [b] => decodeByte b
  | [_, _] => .rejected (.error .incompleteFrame)
  | s :: c :: x :: rest =>
    if s ≠ Config.START then .rejected (.error .invalidFrameStart)
    else if (x :: rest).getLast? ≠ some Config.STOP then .rejected (.error .invalidFrameEnd)
    else decodeBody c (x :: rest).dropLast

/-- `START TYPE PAYLOAD STOP` (R60, R61). -/
def frameBytes (c : Byte) (p : List Byte) : List Byte :=
  Config.START :: c :: (p ++ [Config.STOP])

/-- The bytes of an instruction, from the table's `encoding` column. -/
def encode : Instr → List Byte
  | .toolId v => frameBytes 0x01#8 [v]
  | .toolName p => frameBytes 0x02#8 p
  | .followModeEnable v => frameBytes 0x04#8 [v]
  | .rfidValid v => frameBytes 0x08#8 [v]
  | .batteryLevel v => frameBytes 0x81#8 [v]
  | .armStatus v => frameBytes 0x82#8 [v]
  | .rfidValue p => frameBytes 0x84#8 p
  | .armstateIdle => [0x01#8]
  | .armstateReady => [0x02#8]
  | .armstateClosed => [0x04#8]
  | .armstateDisplay => [0x08#8]
  | .boolTrue => [0x01#8]
  | .boolFalse => [0x00#8]
  | .start => [0x8A#8]
  | .stop => [0x51#8]

/-- A number as `n` bytes, most significant first: the table reads a frame as one number with the first byte on the wire
most significant (its `match_scope`; log 1). -/
def numberBytes : Nat → Nat → List Byte
  | 0, _ => []
  | n + 1, w => numberBytes n (w / 256) ++ [BitVec.ofNat 8 w]

/-- Bytes, most significant first, as a number. -/
def bytesNumber (bs : List Byte) : Nat :=
  bs.foldl (fun acc b => acc * 256 + b.toNat) 0

/-- The bytes of a table word of `nbits` bits, in the order they travel. -/
def wordBytes (nbits w : Nat) : List Byte :=
  numberBytes ((nbits + 7) / 8) w

/-- A row of spec/opcode_table.json: its width in bits, its `mask` and its `match`. -/
structure TableRow where
  nbits : Nat
  mask : Nat
  value : Nat
  deriving DecidableEq, Repr

/-- The table's row of each instruction, its numbers copied from the table. -/
def tableRow : Instr → TableRow
  | .toolId _ => ⟨32, 0xFFFF00FF, 0x8A010051⟩
  | .toolName _ => ⟨152, 0xFFFF00000000000000000000000000000000FF, 0x8A020000000000000000000000000000000051⟩
  | .followModeEnable _ => ⟨32, 0xFFFF00FF, 0x8A040051⟩
  | .rfidValid _ => ⟨32, 0xFFFF00FF, 0x8A080051⟩
  | .batteryLevel _ => ⟨32, 0xFFFF00FF, 0x8A810051⟩
  | .armStatus _ => ⟨32, 0xFFFF00FF, 0x8A820051⟩
  | .rfidValue _ => ⟨56, 0xFFFF00000000FF, 0x8A840000000051⟩
  | .armstateIdle => ⟨8, 0xFF, 0x01⟩
  | .armstateReady => ⟨8, 0xFF, 0x02⟩
  | .armstateClosed => ⟨8, 0xFF, 0x04⟩
  | .armstateDisplay => ⟨8, 0xFF, 0x08⟩
  | .boolTrue => ⟨8, 0xFF, 0x01⟩
  | .boolFalse => ⟨8, 0xFF, 0x00⟩
  | .start => ⟨8, 0xFF, 0x8A⟩
  | .stop => ⟨8, 0xFF, 0x51⟩

/-- The instruction the decoder reads from a table word; none where it rejects it. -/
def decodeTableWord (nbits w : Nat) : Option Instr :=
  match decode (wordBytes nbits w) with
  | .instr i => some i
  | .rejected _ => none

end Sys2Proof
end

