-- ==== Sys2Proof/Machine/Dispatcher.lean ====
section
/-! DEFINITION. DISPATCH: a decoded peripheral-originated frame becomes one handler invocation (R150 to R163). -/

namespace Sys2Proof.Machine

/-- RfidValue (R156). -/
def dispatchRfidValue (p : List Byte) : List Event :=
  [.rfidReceived (hexString p)]

/-- BatteryLevel (R158). DISPATCH is specified for a payload of the registry length only and is called on no other
(R150, D29; log 21). -/
def dispatchBatteryLevel (p : List Byte) : List Event :=
  match p with
  | [v] => [.batteryLevel (level v)]
  | _ => []

/-- ArmStatus: a defined state is handed on (R159), an undefined byte fails InvalidData (R161). -/
def dispatchArmStatus (p : List Byte) : List Event :=
  match p with
  | [v] =>
    match armState v with
    | some a => [.armStateChanged a]
    | none => [.log (.dispatchFailed .invalidData)]
  | _ => []

/-- DISPATCH (R150). The last arms are the default arm the spec keeps, which no registry entry reaches (R162, D24;
log 30). -/
def dispatch (T : Descriptor) (p : List Byte) : List Event :=
  match T.dir with
  | .dev => []
  | .per =>
    match T.name with
    | .rfidValue => dispatchRfidValue p
    | .batteryLevel => dispatchBatteryLevel p
    | .armStatus => dispatchArmStatus p
    | .toolId | .toolName | .followModeEnable | .rfidValid => [.log (.noHandler T.name.code)]

end Sys2Proof.Machine
end

