-- ==== Sys2Proof/Machine/Parser.lean ====
section
/-! DEFINITION. The Stream Parser: the well-formed sessions (R34), FEED (R120 to R141), FEEDS (R143), and the delivery of
bytes to the session of the current link. -/

namespace Sys2Proof.Machine

/-- The table of well-formed sessions (R34). -/
def Session.wf (ss : Session) : Bool :=
  match ss.pstate, ss.buf with
  | .idle, buf => ss.remaining == 0 && buf == []
  | .readingHeader, buf => ss.remaining == 1 && buf == [Config.START]
  | .readingPayload, b0 :: c :: p =>
    b0 == Config.START &&
      match lookup c with
      | some T => decide (1 ≤ ss.remaining) && decide (ss.remaining ≤ T.length) && p.length == T.length - ss.remaining
      | none => ss.remaining == 0 && p == []
  | .readingFooter, b0 :: c :: p =>
    b0 == Config.START && ss.remaining == 1 &&
      match lookup c with
      | some T => p.length == T.length
      | none => false
  | .readingPayload, _ => false
  | .readingFooter, _ => false

/-- FINISH: decode the buffer, dispatch on success, log on failure, reset (R129 to R133). -/
def finish (ss : Session) : Session × List Event :=
  match decodeFrame ss.buf with
  | .ok (T, p) => (ss.endAttempt, dispatch T p)
  | .err e => takeError ss (.decodeFailed e)

/-- FEED in Idle (R121, R122). -/
def feedIdle (ss : Session) (b : Byte) : Session × List Event :=
  if b = Config.START then ({ ss with buf := Memory.start b, remaining := 1, pstate := .readingHeader }, [])
  else (ss, [])

/-- FEED in ReadingHeader (R123, R124). -/
def feedHeader (ss : Session) (b : Byte) : Session × List Event :=
  match lookup b with
  | some T => ({ ss.append b with remaining := T.length, pstate := .readingPayload }, [])
  | none => ({ ss.append b with remaining := 0, pstate := .readingPayload }, [.log (.unknownTypeAtHeader b)])

/-- FEED in ReadingPayload (R125 to R127; with nothing remaining the byte is the stop byte, C3 and D5, log 18). -/
def feedPayload (ss : Session) (b : Byte) : Session × List Event :=
  if ss.remaining = 0 then finish (ss.append b)
  else if ss.remaining = 1 then ({ ss.append b with remaining := 1, pstate := .readingFooter }, [])
  else ({ ss.append b with remaining := ss.remaining - 1 }, [])

/-- FEED in ReadingFooter (R128). -/
def feedFooter (ss : Session) (b : Byte) : Session × List Event :=
  finish (ss.append b)

/-- FEED (R141). -/
def feed (ss : Session) (b : Byte) : Session × List Event :=
  match ss.pstate with
  | .idle => feedIdle ss b
  | .readingHeader => feedHeader ss b
  | .readingPayload => feedPayload ss b
  | .readingFooter => feedFooter ss b

/-- FEEDS: FEED on each byte in order, the events concatenated (R143). -/
def feeds (ss : Session) : List Byte → Session × List Event
  | [] => (ss, [])
  | b :: rest =>
    let one := feed ss b
    let more := feeds one.1 rest
    (more.1, one.2 ++ more.2)

/-- The delivery of bytes to the session of the current link, the one shared operation of every instruction: FEEDS on it,
its events into the trace. A link without a session faults (log 13); a session that is not well formed has no meaning
(R35, log 12). -/
def receive (bs : List Byte) (s : State) : Outcome :=
  match s.session? s.link with
  | none => .fault (.noSession s.link)
  | some ss =>
    if ss.wf then
      .next ((s.setSession s.link (feeds ss bs).1).emit (.link s.link) (feeds ss bs).2)
    else .refused .sessionNotWellFormed

end Sys2Proof.Machine
end

