-- ==== Sys2Proof/Machine/Frames.lean ====
section
/-! DEFINITION. The seven frame rows (R87 to R93): the frame's bytes arrive at the session of the current link, each by
one FEED. In Idle that decodes the frame and dispatches it; inside an attempt the bytes are the rest of it (R137, R232). -/

namespace Sys2Proof.Machine

/-- A frame of a type arrives (R60, R120). -/
def receiveFrame (t : TypeName) (p : List Byte) (s : State) : Outcome :=
  receive (frameBytes t.code p) s

/-- TOOL_ID (R87, R152). -/
def execToolId (v : Byte) (s : State) : Outcome := receiveFrame .toolId [v] s

/-- TOOL_NAME (R88, R153). -/
def execToolName (p : List Byte) (s : State) : Outcome := receiveFrame .toolName p s

/-- FOLLOW_MODE_ENABLE (R89, R154). -/
def execFollowModeEnable (v : Byte) (s : State) : Outcome := receiveFrame .followModeEnable [v] s

/-- RFID_VALID (R90, R155). -/
def execRfidValid (v : Byte) (s : State) : Outcome := receiveFrame .rfidValid [v] s

/-- BATTERY_LEVEL (R91, R158). -/
def execBatteryLevel (v : Byte) (s : State) : Outcome := receiveFrame .batteryLevel [v] s

/-- ARM_STATUS (R92, R159, R161). -/
def execArmStatus (v : Byte) (s : State) : Outcome := receiveFrame .armStatus [v] s

/-- RFID_VALUE (R93, R156). -/
def execRfidValue (p : List Byte) (s : State) : Outcome := receiveFrame .rfidValue p s

end Sys2Proof.Machine
end

