-- ==== Sys2Proof/Machine/PayloadBytes.lean ====
section
/-! DEFINITION. The payload-byte rows: one byte arrives at the session of the current link and FEED takes it as its
position says (R70, R68, R74). As the payload of an ARM_STATUS frame the byte is an Arm State; as the payload of a
FOLLOW_MODE_ENABLE or RFID_VALID frame it is a Boolean, which nothing interprets on receive (R68). -/

namespace Sys2Proof.Machine

/-- ARMSTATE_IDLE (R160). -/
def execArmstateIdle (s : State) : Outcome := receive [ArmState.byte .idle] s

/-- ARMSTATE_READY (R160). -/
def execArmstateReady (s : State) : Outcome := receive [ArmState.byte .ready] s

/-- ARMSTATE_CLOSED (R160). -/
def execArmstateClosed (s : State) : Outcome := receive [ArmState.byte .closed] s

/-- ARMSTATE_DISPLAY (R160). -/
def execArmstateDisplay (s : State) : Outcome := receive [ArmState.byte .display] s

/-- BOOL_TRUE (R68). -/
def execBoolTrue (s : State) : Outcome := receive [boolByte true] s

/-- BOOL_FALSE (R68). -/
def execBoolFalse (s : State) : Outcome := receive [boolByte false] s

end Sys2Proof.Machine
end

