-- ==== Sys2Proof/Machine/Sentinels.lean ====
section
/-! DEFINITION. The sentinel rows: one byte arrives and has its meaning by position only (R73, R137, R138). -/

namespace Sys2Proof.Machine

/-- START: opens an attempt in Idle; elsewhere an unknown type code, payload, or a wrong stop byte (R122, R137). -/
def execStart (s : State) : Outcome := receive [Config.START] s

/-- STOP: the end of a completed attempt; elsewhere noise, an unknown type code or payload (R128, R138). -/
def execStop (s : State) : Outcome := receive [Config.STOP] s

end Sys2Proof.Machine
end

