-- ==== Sys2Proof/Machine/Dispatch.lean ====
section
/-! DEFINITION. One arm per row of spec/opcode_table.json. -/

namespace Sys2Proof.Machine

/-- The meaning of each instruction. -/
def exec (i : Instr) (s : State) : Host.Outcome State Fault Refusal :=
  match i with
  | .toolId v => Sys2Proof.Machine.execToolId v s
  | .toolName p => Sys2Proof.Machine.execToolName p s
  | .followModeEnable v => Sys2Proof.Machine.execFollowModeEnable v s
  | .rfidValid v => Sys2Proof.Machine.execRfidValid v s
  | .batteryLevel v => Sys2Proof.Machine.execBatteryLevel v s
  | .armStatus v => Sys2Proof.Machine.execArmStatus v s
  | .rfidValue p => Sys2Proof.Machine.execRfidValue p s
  | .armstateIdle => Sys2Proof.Machine.execArmstateIdle s
  | .armstateReady => Sys2Proof.Machine.execArmstateReady s
  | .armstateClosed => Sys2Proof.Machine.execArmstateClosed s
  | .armstateDisplay => Sys2Proof.Machine.execArmstateDisplay s
  | .boolTrue => Sys2Proof.Machine.execBoolTrue s
  | .boolFalse => Sys2Proof.Machine.execBoolFalse s
  | .start => Sys2Proof.Machine.execStart s
  | .stop => Sys2Proof.Machine.execStop s

end Sys2Proof.Machine
end

