-- ==== Sys2Proof/Machine/HostCalls.lean ====
section
/-! DEFINITION. What each call of the host does (R30, R206): the delivery of bytes, the commands, the creation and the end
of a session, and the direct calls of the pure operations. -/

namespace Sys2Proof.Machine

/-- A delivery of bytes to link `k`: bytes that are a row of the table run that instruction, all others are fed as they
are. Both are FEEDS of the same bytes (R47, R143; log 3). -/
def deliver (k : Nat) (bytes : List Byte) (s : State) : Outcome :=
  match decode bytes with
  | .instr i => exec i { s with link := k }
  | .rejected _ => receive bytes { s with link := k }

/-- A new link gets a new session (R220, R222). -/
def createSession (s : State) : State :=
  { s with sessions := s.sessions ++ [some Session.new] }.give (.created s.sessions.length)

/-- A link ends and its session is dropped with whatever it holds; nothing is decoded and nothing raised (R222, log 7). -/
def dropSession (k : Nat) (s : State) : Outcome :=
  match s.session? k with
  | none => .fault (.noSession k)
  | some _ => .next { s with sessions := s.sessions.set k none }

/-- One call of the host. -/
def performCall (c : HostCall) (s : State) : Outcome :=
  match c with
  | .deliver k bytes => deliver k bytes s
  | .overlap _ _ _ => .refused .overlappingFeeds
  | .setToolId id answer => .next (setToolId id answer s)
  | .setToolName name answer => .next (setToolName Config.emptyNameOk name answer s)
  | .setFollowMode enabled answer => .next (setFollowMode enabled answer s)
  | .setRfidValidity valid answer => .next (setRfidValidity valid answer s)
  | .createSession => .next (createSession s)
  | .dropSession k => dropSession k s
  | .lookup c => .next (s.give (.lookup (lookup c)))
  | .encode c p => .next (s.give (.encode (encodeFrame c p)))
  | .decode f => .next (s.give (.decode (decodeFrame f)))

/-- The host makes no call: the machine waits, all state survives (R145, R212; log 5). -/
def waitForHost (s : State) : Outcome :=
  .next s

/-- The next call made with it taken off the tape, or the wait. -/
def nextCall (s : State) : Outcome :=
  match s.pending with
  | [] => waitForHost s
  | c :: rest => performCall c { s with pending := rest }

/-- A table word delivered next, to the current link. -/
def placeWord (s : State) (nbits w : Nat) : State :=
  { s with pending := .deliver s.link (wordBytes nbits w) :: s.pending }

end Sys2Proof.Machine
end

