-- ==== Sys2Proof/Machine/Step.lean ====
section
/-! DEFINITION. One step: the machine moves only when the host moves it, one call at a time (R51, R246). -/

namespace Sys2Proof.Machine

/-- One step of the machine. -/
def step (s : State) : Host.Outcome State Fault Refusal :=
  nextCall s

/-- `s` with a table word as the host's next delivery to the current link, so that `step` runs exactly it (log 4). -/
def State.withFetchWord (s : State) (nbits w : Nat) : State :=
  placeWord s nbits w

end Sys2Proof.Machine
end

