-- ==== Sys2Proof/Safety.lean ====
section
/-! DEFINITION. What the statements are about: the invariant of a safe run, the events the hardware may record, and the
conditions under which a call is one the hardware can be given. -/

namespace Sys2Proof.Machine

/-- Link `k` has the session `ss` and it is well formed: where FEED is specified (R35). -/
def State.Ready (s : State) (k : Nat) (ss : Session) : Prop :=
  s.session? k = some ss ∧ ss.wf = true

/-- Every session is well formed (R34). -/
def State.sessionsWf (s : State) : Bool :=
  s.sessions.all fun o => o.all Session.wf

/-- The characters of a lowercase hexadecimal string (R157). -/
def hexChars : List Char :=
  ['0', '1', '2', '3', '4', '5', '6', '7', '8', '9', 'a', 'b', 'c', 'd', 'e', 'f']

/-- An event a session may record: what DISPATCH and FEED emit for some frame of the registry (R31, R117, R156 to R161). -/
def Event.fromSession : Event → Bool
  | .rfidReceived h => h.length == 8 && h.all fun ch => hexChars.contains ch
  | .batteryLevel n => decide (n ≤ 255)
  | .armStateChanged _ => true
  | .log (.unknownTypeAtHeader c) => (lookup c).isNone
  | .log (.decodeFailed e) => e == .invalidFrameEnd || e == .unknownMessageType
  | .log (.dispatchFailed e) => e == .invalidData
  | .log (.noHandler _) => false
  | .transmit _ _ => false

/-- A frame whose type is device-originated (R65). -/
def devFrame (f : List Byte) : Bool :=
  match decodeFrame f with
  | .ok (T, _) => T.dir == .dev
  | .err _ => false

/-- An event a command may record: one whole valid frame of a `dev` type (R80, R182). -/
def Event.fromCommand : Event → Bool
  | .transmit f _ => devFrame f
  | .rfidReceived _ | .batteryLevel _ | .armStateChanged _ | .log _ => false

/-- A record of the trace that the hardware can have made. -/
def Record.legal (r : Record) : Bool :=
  match r.origin with
  | .link _ => r.event.fromSession
  | .command => r.event.fromCommand

/-- The invariant: every session well formed and every record of the trace legal. -/
def State.Inv (s : State) : Prop :=
  s.sessionsWf = true ∧ ∀ r ∈ s.trace, r.legal = true

/-- The host's next call is one the hardware can be given: feeding and dropping name a link that has a session, and no
FEEDs overlap (R51, R225, R230). -/
def State.callAllowed (s : State) : Bool :=
  match s.pending with
  | .deliver k _ :: _ => (s.session? k).isSome
  | .dropSession k :: _ => (s.session? k).isSome
  | .overlap _ _ _ :: _ => false
  | _ => true

end Sys2Proof.Machine
end

