-- ==== Sys2Proof/Certificates/Slice0/Obligations.lean ====
section
/-! DEFINITION. The statements for the provers. Each docstring names the rule of spec/ it formalises, or says which
choice of the spec or of the model it rests on. -/

open Sys2Proof Sys2Proof.Machine

/-! Encoding. -/

/-- Decoding the encoding of a well-formed instruction gives it back, with every operand at every value. The one
exception is the table's own: BOOL_TRUE and ARMSTATE_IDLE are one word, read as ARMSTATE_IDLE (the model's choice, log 2). -/
def Obligations.DecodeOfEncodeGivesInstr : Prop :=
  ∀ i : Instr, i.wf = true → decode (encode i) = .instr (if i = .boolTrue then .armstateIdle else i)

/-- A byte sequence that decodes is exactly the encoding of what it decodes to: no bit is dropped, no reading is doubled. -/
def Obligations.EncodeOfDecodeGivesBytes : Prop :=
  ∀ (bs : List Byte) (i : Instr), decode bs = .instr i → i.wf = true ∧ encode i = bs

/-- Words written out from the table's encodings decode to the row's instruction, one for each row but BOOL_TRUE: its
word 0x01 is ARMSTATE_IDLE's too and is read as ARMSTATE_IDLE (the model's choice, log 2). That a frame's first byte is the
most significant of its number is the model's reading of the table (log 1). -/
def Obligations.WrittenTableWordsDecode : Prop :=
  decodeTableWord 32 0x8A010551 = some (.toolId 0x05#8) ∧
  decodeTableWord 152 0x8A026D61727465617520202020202020202051 =
    some (.toolName [0x6D#8, 0x61#8, 0x72#8, 0x74#8, 0x65#8, 0x61#8, 0x75#8, 0x20#8, 0x20#8, 0x20#8, 0x20#8, 0x20#8,
      0x20#8, 0x20#8, 0x20#8, 0x20#8]) ∧
  decodeTableWord 32 0x8A040151 = some (.followModeEnable 0x01#8) ∧
  decodeTableWord 32 0x8A080051 = some (.rfidValid 0x00#8) ∧
  decodeTableWord 32 0x8A816451 = some (.batteryLevel 0x64#8) ∧
  decodeTableWord 32 0x8A820251 = some (.armStatus 0x02#8) ∧
  decodeTableWord 56 0x8A84DEADBEEF51 = some (.rfidValue [0xDE#8, 0xAD#8, 0xBE#8, 0xEF#8]) ∧
  decodeTableWord 8 0x01 = some .armstateIdle ∧ decodeTableWord 8 0x02 = some .armstateReady ∧
  decodeTableWord 8 0x04 = some .armstateClosed ∧ decodeTableWord 8 0x08 = some .armstateDisplay ∧
  decodeTableWord 8 0x00 = some .boolFalse ∧ decodeTableWord 8 0x8A = some .start ∧ decodeTableWord 8 0x51 = some .stop

/-- The decoder, written from the table, and DECODE, written from R106, agree: on every sequence that is not a single byte
they reject with the same error name, and the decoder gives an instruction exactly where ValidFrame holds (R77). -/
def Obligations.DecoderAgreesWithDECODE : Prop :=
  ∀ f : List Byte, f.length ≠ 1 →
    (∀ e, decode f = .rejected (.error e) ↔ decodeFrame f = .err e) ∧
    ((∃ i, decode f = .instr i) ↔ validFrame f = true) ∧
    ((∃ T p, decodeFrame f = .ok (T, p)) ↔ validFrame f = true)

/-! The registry and the codec. -/

/-- R85: the seven entries of LOOKUP, and `none` for every other code (that there are seven and which way each goes are the
spec's decisions D9 and D10, log 25). -/
def Obligations.LookupAnswersTheSevenEntries : Prop :=
  lookup 0x01#8 = some ⟨.toolId, .dev, 1, .int 1 6⟩ ∧ lookup 0x02#8 = some ⟨.toolName, .dev, 16, .text⟩ ∧
  lookup 0x04#8 = some ⟨.followModeEnable, .dev, 1, .bool⟩ ∧ lookup 0x08#8 = some ⟨.rfidValid, .dev, 1, .bool⟩ ∧
  lookup 0x81#8 = some ⟨.batteryLevel, .per, 1, .int 0 255⟩ ∧ lookup 0x82#8 = some ⟨.armStatus, .per, 1, .armState⟩ ∧
  lookup 0x84#8 = some ⟨.rfidValue, .per, 4, .rawBytes⟩ ∧
  ∀ c : Byte, c ∉ [0x01#8, 0x02#8, 0x04#8, 0x08#8, 0x81#8, 0x82#8, 0x84#8] → lookup c = none

/-- ENCODE of a payload of the registry length is `START ++ code ++ payload ++ STOP`, of length `len(p) + 3` (R104); that
ENCODE takes the `per` codes as well is the spec's decision D8 (R105, log 17). -/
def Obligations.EncodeBuildsTheFrame : Prop :=
  ∀ (c : Byte) (T : Descriptor) (p : List Byte), lookup c = some T → p.length = T.length →
    encodeFrame c p = .ok ([0x8A#8, c] ++ p ++ [0x51#8]) ∧ ([0x8A#8, c] ++ p ++ [0x51#8]).length = p.length + 3

/-- The failures of ENCODE and their order: unknown code, too long, wrong length (R101 to R103; the order and the first
error are the spec's decision D7, log 17). -/
def Obligations.EncodeFailsByName : Prop :=
  ∀ (c : Byte) (p : List Byte),
    (lookup c = none → encodeFrame c p = .err .unknownMessageType) ∧
    (∀ T, lookup c = some T → 16 < p.length → encodeFrame c p = .err .payloadTooLong) ∧
    (∀ T, lookup c = some T → p.length ≤ 16 → p.length ≠ T.length → encodeFrame c p = .err .invalidData)

/-- The outcomes of DECODE (R107 to R112), the first failing check naming the error (the order is the spec's decision D6,
log 16), and no failure but the five named ones. -/
def Obligations.DecodeOutcomesInOrder : Prop :=
  ∀ f : List Byte,
    (f.length < 3 → decodeFrame f = .err .incompleteFrame) ∧
    (3 ≤ f.length → f[0]? ≠ some 0x8A#8 → decodeFrame f = .err .invalidFrameStart) ∧
    (3 ≤ f.length → f[0]? = some 0x8A#8 → f.getLast? ≠ some 0x51#8 → decodeFrame f = .err .invalidFrameEnd) ∧
    (∀ c p, f = [0x8A#8, c] ++ p ++ [0x51#8] →
      (lookup c = none → decodeFrame f = .err .unknownMessageType) ∧
      (∀ T, lookup c = some T → p.length ≠ T.length → decodeFrame f = .err .invalidPayloadLength) ∧
      (∀ T, lookup c = some T → p.length = T.length → decodeFrame f = .ok (T, p))) ∧
    (∀ e, decodeFrame f = .err e →
      e = .incompleteFrame ∨ e = .invalidFrameStart ∨ e = .invalidFrameEnd ∨ e = .unknownMessageType ∨
        e = .invalidPayloadLength)

/-- The codec's two laws: what ENCODE makes, DECODE reads back as the same type and payload (R114), and a sequence DECODE
accepts is the one frame ENCODE makes of the result (R115). -/
def Obligations.CodecRoundTripBothWays : Prop :=
  (∀ c p f, encodeFrame c p = .ok f → ∃ T, lookup c = some T ∧ decodeFrame f = .ok (T, p)) ∧
  (∀ f T p, decodeFrame f = .ok (T, p) → encodeFrame T.name.code p = .ok f)

/-- DECODE is injective on the frames it accepts: a type and a payload come from one frame only (R115). -/
def Obligations.DecodeIsInjective : Prop :=
  ∀ (f g : List Byte) (T : Descriptor) (p : List Byte),
    decodeFrame f = .ok (T, p) → decodeFrame g = .ok (T, p) → f = g

/-! FEED, one branch after the other. -/

/-- R121: noise in Idle writes nothing and emits nothing. -/
def Obligations.IdleDiscardsNoise : Prop :=
  ∀ (ss : Session) (b : Byte), ss.wf = true → ss.pstate = .idle → b ≠ 0x8A#8 → feed ss b = (ss, [])

/-- R122: START in Idle opens a frame attempt. -/
def Obligations.IdleOpensAttemptOnStart : Prop :=
  ∀ ss : Session, ss.wf = true → ss.pstate = .idle → feed ss 0x8A#8 = (⟨.readingHeader, 1, [0x8A#8]⟩, [])

/-- R123: a known type code in ReadingHeader loads the counter with the type's payload length. -/
def Obligations.HeaderResolvesKnownType : Prop :=
  ∀ (ss : Session) (b : Byte) (T : Descriptor), ss.wf = true → ss.pstate = .readingHeader → lookup b = some T →
    feed ss b = (⟨.readingPayload, T.length, [0x8A#8, b]⟩, [])

/-- R124: an unknown type code in ReadingHeader is logged and the attempt goes on with nothing remaining; what the Log
says is the spec's decision D12 (log 24). -/
def Obligations.HeaderLogsUnknownType : Prop :=
  ∀ (ss : Session) (b : Byte), ss.wf = true → ss.pstate = .readingHeader → lookup b = none →
    feed ss b = (⟨.readingPayload, 0, [0x8A#8, b]⟩, [.log (.unknownTypeAtHeader b)])

/-- R125 and R126: a payload byte is appended and counted down; the last one moves to ReadingFooter. -/
def Obligations.PayloadByteIsCounted : Prop :=
  ∀ (ss : Session) (b : Byte), ss.wf = true → ss.pstate = .readingPayload →
    (2 ≤ ss.remaining → feed ss b = (⟨.readingPayload, ss.remaining - 1, ss.buf ++ [b]⟩, [])) ∧
    (ss.remaining = 1 → feed ss b = (⟨.readingFooter, 1, ss.buf ++ [b]⟩, []))

/-- R127 and the spec's decision D5 (log 18): with nothing remaining the byte is taken as the stop byte, the attempt fails
by the byte's value (a wrong stop byte before the unknown type: D6, log 16) and the session is new again (D4, log 6). What
the Log says is D12 (log 24). -/
def Obligations.UnknownTypeTakesNextByteAsStop : Prop :=
  ∀ (ss : Session) (b : Byte), ss.wf = true → ss.pstate = .readingPayload → ss.remaining = 0 →
    feed ss b = (Session.new,
      [.log (.decodeFailed (if b = 0x51#8 then .unknownMessageType else .invalidFrameEnd))])

/-- R128 to R132: the byte in the stop position ends the attempt; STOP dispatches the payload, any other byte fails
InvalidFrameEnd; either way the session is new again (`remaining = 0` in Idle is the spec's decision D4, log 6; what the
Log says is D12, log 24). -/
def Obligations.FooterEndsAttempt : Prop :=
  ∀ (ss : Session) (b c : Byte) (p : List Byte) (T : Descriptor), ss.wf = true → ss.pstate = .readingFooter →
    ss.buf = [0x8A#8, c] ++ p → lookup c = some T →
    feed ss b = (Session.new, if b = 0x51#8 then dispatch T p else [.log (.decodeFailed .invalidFrameEnd)])

/-! FEED as a whole. -/

/-- R34 and R135: FEED takes a well-formed session to a well-formed session, whatever the byte. -/
def Obligations.FeedKeepsSessionWellFormed : Prop :=
  ∀ (ss : Session) (b : Byte), ss.wf = true → (feed ss b).1.wf = true

/-- R142: a FEED step emits nothing, one handler invocation or one Log, and never a transmit; and what it emits is legal. -/
def Obligations.FeedEmitsAtMostOneEvent : Prop :=
  ∀ (ss : Session) (b : Byte), ss.wf = true →
    (feed ss b).2 = [] ∨ ∃ e, (feed ss b).2 = [e] ∧ e.fromSession = true ∧ ∀ f t, e ≠ .transmit f t

/-- R199, R131 and R161: an error inside FEED is one Log and no handler, and leaves the session as at creation. Where the
byte ends an attempt (`remaining = 0` in ReadingPayload by the spec's decision D5, log 18; or in ReadingFooter) and DECODE of
the buffer with it fails, the step emits that one Log; so it does where DECODE gives an ArmStatus payload that is no Arm
State. A DecodeFailed or DispatchFailed is never logged otherwise, and is InvalidFrameEnd or UnknownMessageType from DECODE
(R117) and InvalidData from DISPATCH.
What the Log says is D12 (log 24), `remaining = 0` after it D4 (log 6). -/
def Obligations.FeedContainsErrors : Prop :=
  ∀ (ss : Session) (b : Byte), ss.wf = true →
    ((ss.pstate = .readingPayload ∧ ss.remaining = 0) ∨ ss.pstate = .readingFooter →
      (∀ e, decodeFrame (ss.buf ++ [b]) = .err e → feed ss b = (Session.new, [.log (.decodeFailed e)])) ∧
      (∀ (T : Descriptor) (v : Byte), decodeFrame (ss.buf ++ [b]) = .ok (T, [v]) → T.name = .armStatus →
        armState v = none → feed ss b = (Session.new, [.log (.dispatchFailed .invalidData)]))) ∧
    (∀ e, .log (.decodeFailed e) ∈ (feed ss b).2 →
      feed ss b = (Session.new, [.log (.decodeFailed e)]) ∧ (e = .invalidFrameEnd ∨ e = .unknownMessageType)) ∧
    (∀ e, .log (.dispatchFailed e) ∈ (feed ss b).2 →
      feed ss b = (Session.new, [.log (.dispatchFailed e)]) ∧ e = .invalidData)

/-- R34 and R50: the buffer of a well-formed session has its form, begins with START when it is not empty, holds at most
18 bytes, and so at most 19 within the step that appends one. -/
def Obligations.BufferStaysWithinCapacity : Prop :=
  ∀ (ss : Session) (b : Byte), ss.wf = true →
    Memory.wf ss.buf = true ∧ ss.buf.length ≤ 18 ∧ (ss.buf ≠ [] → Memory.read ss.buf 0 = some 0x8A#8) ∧
      Memory.wf (ss.append b).buf = true ∧ ss.remaining ≤ 16

/-- R41: within an attempt the buffer is append-only, byte by byte; on the return to Idle every address is cleared; in
Idle only START writes: any other byte leaves the session as it is. -/
def Obligations.BufferIsAppendOnly : Prop :=
  ∀ (ss : Session) (b : Byte), ss.wf = true →
    ((feed ss b).1.pstate ≠ .idle →
      (∀ a, a ≠ ss.buf.length → Memory.read (feed ss b).1.buf a = Memory.read ss.buf a) ∧
        Memory.read (feed ss b).1.buf ss.buf.length = some b) ∧
    ((feed ss b).1.pstate = .idle → ∀ a, Memory.read (feed ss b).1.buf a = none) ∧
    (ss.pstate = .idle → b ≠ 0x8A#8 → (feed ss b).1 = ss)

/-- R136: a frame attempt of a known type ends after exactly `length + 3` bytes, whatever the bytes after the type are,
and one of an unknown type after exactly 3 (this count is the spec's decision D5, log 18). After it the session is as at
creation (D4, log 6). -/
def Obligations.AttemptConsumesFixedByteCount : Prop :=
  (∀ (c : Byte) (T : Descriptor) (bs : List Byte), lookup c = some T →
    (bs.length < T.length + 1 → (feeds Session.new ([0x8A#8, c] ++ bs)).1.pstate ≠ .idle) ∧
    (bs.length = T.length + 1 → (feeds Session.new ([0x8A#8, c] ++ bs)).1 = Session.new)) ∧
  (∀ c b : Byte, lookup c = none →
    (feeds Session.new [0x8A#8]).1.pstate ≠ .idle ∧ (feeds Session.new [0x8A#8, c]).1.pstate ≠ .idle ∧
    (feeds Session.new [0x8A#8, c, b]).1 = Session.new)

/-- R144: a stream of any number of valid frames, each after noise without START, is parsed frame by frame: the session
ends as at creation (D4, log 6) and the events are those of DISPATCH on each frame, in order. -/
def Obligations.FramesAfterNoiseAreAllDispatched : Prop :=
  ∀ parts : List (List Byte × List Byte),
    (∀ x ∈ parts, (∀ b ∈ x.1, b ≠ 0x8A#8) ∧ validFrame x.2 = true) →
    feeds Session.new (parts.flatMap fun x => x.1 ++ x.2) =
      (Session.new, parts.flatMap fun x =>
        match decodeFrame x.2 with
        | .ok (T, p) => dispatch T p
        | .err _ => [])

/-- R162: the default arm of DISPATCH is reached by no registry entry (kept by the spec's decision D24, log 30). -/
def Obligations.DispatchDefaultArmUnreachable : Prop :=
  ∀ (c : Byte) (T : Descriptor) (p : List Byte) (x : Byte), lookup c = some T →
    .log (.noHandler x) ∉ dispatch T p

/-- R157: `hex(p)` has two characters per byte, high nibble first, each digit `0` to `9` or `a` to `f` (the characters are
general knowledge G2, log 27). -/
def Obligations.HexStringDigits : Prop :=
  ∀ p : List Byte,
    (hexString p).length = 2 * p.length ∧
    (∀ (i : Nat) (b : Byte), p[i]? = some b →
      (hexString p)[2 * i]? = some (hexDigit (b.extractLsb' 4 4)) ∧
      (hexString p)[2 * i + 1]? = some (hexDigit (b.extractLsb' 0 4))) ∧
    (∀ d : BitVec 4, (d.toNat ≤ 9 → (hexDigit d).toNat = 0x30 + d.toNat) ∧
      (10 ≤ d.toNat → (hexDigit d).toNat = 0x61 + (d.toNat - 10)))

/-! The instructions. -/

/-- Every instruction completes wherever FEED is specified: its effect is FEEDS of its bytes on the session of the current
link, the events into the trace and nothing else (R143, R232; the reading of an instruction as a delivery is the
model's, log 3). -/
def Obligations.EveryInstructionFeedsItsBytes : Prop :=
  ∀ (i : Instr) (s : State) (ss : Session), s.Ready s.link ss →
    exec i s = .next ((s.setSession s.link (feeds ss (encode i)).1).emit (.link s.link) (feeds ss (encode i)).2)

/-- R151: a frame of each of the four `dev` types received in Idle changes nothing and emits nothing, whatever its
payload. -/
def Obligations.DevFramesAreDroppedSilently : Prop :=
  ∀ (s : State) (v : Byte) (p : List Byte), s.session? s.link = some Session.new → p.length = 16 →
    exec (.toolId v) s = .next s ∧ exec (.toolName p) s = .next s ∧
    exec (.followModeEnable v) s = .next s ∧ exec (.rfidValid v) s = .next s

/-- R158: a BatteryLevel frame received in Idle invokes onBatteryLevel with the byte read as an unsigned number. -/
def Obligations.BatteryLevelInvokesHandler : Prop :=
  ∀ (s : State) (v : Byte), s.session? s.link = some Session.new →
    exec (.batteryLevel v) s = .next (s.emit (.link s.link) [.batteryLevel v.toNat])

/-- R159 and R161: an ArmStatus frame received in Idle invokes onArmStateChanged for a defined state, and is logged as
InvalidData with no invocation for any other byte (which bytes are states is the spec's decision D27, log 26; what the Log
says is D12, log 24). -/
def Obligations.ArmStatusInvokesHandlerOrFails : Prop :=
  ∀ (s : State) (v : Byte), s.session? s.link = some Session.new →
    (∀ a, armState v = some a → exec (.armStatus v) s = .next (s.emit (.link s.link) [.armStateChanged a])) ∧
    (armState v = none →
      exec (.armStatus v) s = .next (s.emit (.link s.link) [.log (.dispatchFailed .invalidData)]))

/-- R160 and the spec's decision D27 (log 26): the four values of the Arm State byte and no others. -/
def Obligations.ArmStateIsAClosedEnumeration : Prop :=
  armState 0x01#8 = some .idle ∧ armState 0x02#8 = some .ready ∧ armState 0x04#8 = some .closed ∧
  armState 0x08#8 = some .display ∧ ∀ v : Byte, v ∉ [0x01#8, 0x02#8, 0x04#8, 0x08#8] → armState v = none

/-- R156: an RfidValue frame received in Idle invokes onRfidReceived with the hexadecimal string of its 4 bytes. -/
def Obligations.RfidValueInvokesHandler : Prop :=
  ∀ (s : State) (p : List Byte), s.session? s.link = some Session.new → p.length = 4 →
    exec (.rfidValue p) s = .next (s.emit (.link s.link) [.rfidReceived (hexString p)])

/-- An Arm State byte as the payload of an ARM_STATUS frame (R70, R126, R160): it is stored, and the STOP that follows
invokes onArmStateChanged with the state it names. -/
def Obligations.ArmStateBytesInAnArmStatusFrame : Prop :=
  ∀ (s : State) (i : Instr) (b : Byte) (a : ArmState),
    (i, b, a) ∈ [(Instr.armstateIdle, 0x01#8, ArmState.idle), (Instr.armstateReady, 0x02#8, ArmState.ready),
      (Instr.armstateClosed, 0x04#8, ArmState.closed), (Instr.armstateDisplay, 0x08#8, ArmState.display)] →
    s.session? s.link = some ⟨.readingPayload, 1, [0x8A#8, 0x82#8]⟩ →
    exec i s = .next (s.setSession s.link ⟨.readingFooter, 1, [0x8A#8, 0x82#8, b]⟩) ∧
    exec .stop (s.setSession s.link ⟨.readingFooter, 1, [0x8A#8, 0x82#8, b]⟩) =
      .next ((s.setSession s.link Session.new).emit (.link s.link) [.armStateChanged a])

/-- A Boolean byte as the payload of a FOLLOW_MODE_ENABLE or RFID_VALID frame (R68, R151): it is stored, the STOP that
follows ends the attempt, and nothing interprets it. -/
def Obligations.BoolBytesInABooleanFrame : Prop :=
  ∀ (s : State) (i : Instr) (b c : Byte),
    (i, b) ∈ [(Instr.boolTrue, 0x01#8), (Instr.boolFalse, 0x00#8)] → c ∈ [0x04#8, 0x08#8] →
    s.session? s.link = some ⟨.readingPayload, 1, [0x8A#8, c]⟩ →
    exec i s = .next (s.setSession s.link ⟨.readingFooter, 1, [0x8A#8, c, b]⟩) ∧
    exec .stop (s.setSession s.link ⟨.readingFooter, 1, [0x8A#8, c, b]⟩) = .next (s.setSession s.link Session.new)

/-- START by position (R122, R137): it opens an attempt in Idle, is an unknown type code in ReadingHeader, payload in
ReadingPayload (the failed stop byte after an unknown code) and a wrong stop byte in ReadingFooter. That the byte after an
unknown code ends the attempt is the spec's decision D5 (log 18), that it fails as InvalidFrameEnd before the unknown type
is looked at D6 (log 16), the session after it D4 (log 6), what a Log says D12 (log 24). -/
def Obligations.StartMeansItsPosition : Prop :=
  ∀ (s : State) (ss : Session), s.Ready s.link ss →
    (ss.pstate = .idle → exec .start s = .next (s.setSession s.link ⟨.readingHeader, 1, [0x8A#8]⟩)) ∧
    (ss.pstate = .readingHeader →
      exec .start s = .next ((s.setSession s.link ⟨.readingPayload, 0, [0x8A#8, 0x8A#8]⟩).emit (.link s.link)
        [.log (.unknownTypeAtHeader 0x8A#8)])) ∧
    (ss.pstate = .readingPayload → 2 ≤ ss.remaining →
      exec .start s = .next (s.setSession s.link ⟨.readingPayload, ss.remaining - 1, ss.buf ++ [0x8A#8]⟩)) ∧
    (ss.pstate = .readingPayload → ss.remaining = 1 →
      exec .start s = .next (s.setSession s.link ⟨.readingFooter, 1, ss.buf ++ [0x8A#8]⟩)) ∧
    (ss.pstate = .readingPayload → ss.remaining = 0 →
      exec .start s = .next ((s.setSession s.link Session.new).emit (.link s.link)
        [.log (.decodeFailed .invalidFrameEnd)])) ∧
    (ss.pstate = .readingFooter →
      exec .start s = .next ((s.setSession s.link Session.new).emit (.link s.link)
        [.log (.decodeFailed .invalidFrameEnd)]))

/-- STOP by position (R121, R128, R138): noise in Idle, an unknown type code in ReadingHeader, payload in ReadingPayload
while bytes remain, and the end of the attempt when none does. That the byte after an unknown code ends the attempt is the
spec's decision D5 (log 18), the session after an attempt D4 (log 6), what a Log says D12 (log 24). -/
def Obligations.StopMeansItsPosition : Prop :=
  ∀ (s : State) (ss : Session), s.Ready s.link ss →
    (ss.pstate = .idle → exec .stop s = .next s) ∧
    (ss.pstate = .readingHeader →
      exec .stop s = .next ((s.setSession s.link ⟨.readingPayload, 0, [0x8A#8, 0x51#8]⟩).emit (.link s.link)
        [.log (.unknownTypeAtHeader 0x51#8)])) ∧
    (ss.pstate = .readingPayload → 2 ≤ ss.remaining →
      exec .stop s = .next (s.setSession s.link ⟨.readingPayload, ss.remaining - 1, ss.buf ++ [0x51#8]⟩)) ∧
    (ss.pstate = .readingPayload → ss.remaining = 1 →
      exec .stop s = .next (s.setSession s.link ⟨.readingFooter, 1, ss.buf ++ [0x51#8]⟩)) ∧
    (ss.pstate = .readingPayload → ss.remaining = 0 →
      exec .stop s = .next ((s.setSession s.link Session.new).emit (.link s.link)
        [.log (.decodeFailed .unknownMessageType)])) ∧
    (∀ (c : Byte) (T : Descriptor) (p : List Byte), ss.pstate = .readingFooter → ss.buf = [0x8A#8, c] ++ p →
      lookup c = some T →
      exec .stop s = .next ((s.setSession s.link Session.new).emit (.link s.link) (dispatch T p)))

/-- The frame of every instruction (R37, R51): the session of every other link and every byte of its buffer, the host's
calls and results and the current link are unchanged, and the trace only grows, by events of this link's session. -/
def Obligations.InstructionLeavesTheRestUnchanged : Prop :=
  ∀ (i : Instr) (s t : State), exec i s = .next t →
    t.link = s.link ∧ t.pending = s.pending ∧ t.returns = s.returns ∧ t.sessions.length = s.sessions.length ∧
    (∀ k, k ≠ s.link → t.session? k = s.session? k ∧ ∀ a, t.readByte k a = s.readByte k a) ∧
    (∃ es : List Event, t.trace = s.trace ++ es.map (fun e => ⟨.link s.link, e⟩) ∧ ∀ e ∈ es, e.fromSession = true) ∧
    (∀ o, o ≠ .link s.link → t.traceOf o = s.traceOf o)

/-- The two rows that are one word have one effect, so which of them the decoder names makes no difference (log 2). -/
def Obligations.OneWordRowsHaveOneEffect : Prop :=
  ∀ s : State, exec .boolTrue s = exec .armstateIdle s

/-- R35 and the spec's decision D31 (log 12): every instruction refuses a session that is not well formed; and it faults
where the current link has no session (the model's choice from R225, log 13). -/
def Obligations.InstructionStopsWithoutAWellFormedSession : Prop :=
  ∀ (i : Instr) (s : State),
    (∀ ss, s.session? s.link = some ss → ss.wf = false → exec i s = .refused .sessionNotWellFormed) ∧
    (s.session? s.link = none → exec i s = .fault (.noSession s.link))

/-! The step. -/

/-- A step whose next call delivers the bytes of an instruction runs that instruction on that link with the call taken off
the tape; in particular the word placed by `withFetchWord` is run next, on `s` itself. All of it is the model's choice: the
tape of calls and `withFetchWord` (log 4), a delivery read as a row of the table (log 3), the order of a word's bytes (log 1). -/
def Obligations.StepRunsTheDecodedInstruction : Prop :=
  (∀ (s : State) (k : Nat) (bs : List Byte) (rest : List HostCall) (i : Instr),
    s.pending = .deliver k bs :: rest → decode bs = .instr i →
    step s = exec i { s with pending := rest, link := k }) ∧
  (∀ (s : State) (nbits w : Nat) (i : Instr), decodeTableWord nbits w = some i →
    step (s.withFetchWord nbits w) = exec i s)

/-- R74, R135, R143: a delivery of any bytes at all, a row of the table or not, is FEEDS of them on the session of its
link, and never fails (that a delivery is one step and a call on the tape is the model's choice, logs 3 and 4). -/
def Obligations.EveryDeliveryIsFEEDS : Prop :=
  ∀ (s : State) (k : Nat) (bs : List Byte) (rest : List HostCall) (ss : Session),
    s.pending = .deliver k bs :: rest → s.Ready k ss →
    step s = .next
      ((State.setSession { s with pending := rest, link := k } k (feeds ss bs).1).emit (.link k) (feeds ss bs).2)

/-- R143: the host may cut a stream into deliveries anywhere; one delivery and its two parts give the same state
(deliveries as calls on the tape are the model's choice, log 4). -/
def Obligations.ChunkingDoesNotMatter : Prop :=
  ∀ (s : State) (k : Nat) (a b : List Byte) (rest : List HostCall) (ss : Session), s.Ready k ss →
    ∃ t u, step { s with pending := .deliver k (a ++ b) :: rest } = .next u ∧
      step { s with pending := .deliver k a :: .deliver k b :: rest } = .next t ∧ step t = .next u

/-- R145 and R212: without a call of the host nothing happens and all state survives (that a step exists and changes
nothing is the model's form of waiting, log 5). -/
def Obligations.WaitsUntilTheHostMoves : Prop :=
  ∀ s : State, s.pending = [] → step s = .next s

/-- R53 and R230, with the spec's decision D20 (log 11): overlapping FEEDs on one session are refused. -/
def Obligations.OverlappingFeedsAreRefused : Prop :=
  ∀ (s : State) (k : Nat) (a b : List Byte) (rest : List HostCall),
    s.pending = .overlap k a b :: rest → step s = .refused .overlappingFeeds

/-- The invariant: every session well formed (R34) and every record of the trace one the hardware can have made (R31,
R117, R182) is kept by every step, from every state that has it. -/
def Obligations.StepKeepsTheInvariant : Prop :=
  ∀ s t : State, s.Inv → step s = .next t → t.Inv

/-- The invariant holds after reset. -/
def Obligations.ResetMeetsTheInvariant : Prop :=
  State.reset.Inv

/-- Reset (R32, R221): a session in Idle with nothing in its buffer and nothing remaining (the spec's decisions D3 and D4,
log 6) and an empty trace (D12, log 14). That there is one session (log 10), that the current link is 0 (log 3), that no
call is on the tape (log 4) and no result recorded (log 15) are the model's choices. -/
def Obligations.ResetIsOneNewSession : Prop :=
  State.reset.session? 0 = some ⟨.idle, 0, []⟩ ∧ State.reset.sessions.length = 1 ∧ State.reset.trace = [] ∧
    State.reset.returns = [] ∧ State.reset.pending = [] ∧ State.reset.link = 0

/-- No error stops the hardware (R202): with every session well formed, every call the hardware can be given ends in a
next state. The premises are the model's: ill-formed sessions are refused (D31, log 12), and `callAllowed` leaves out
overlapping FEEDs (D20, log 11) and a link without a session (log 13). The step of waiting (log 5), the end of a link (log 7)
and the direct calls (log 32) are covered too and are the model's choices. -/
def Obligations.NoErrorStopsTheHardware : Prop :=
  ∀ s : State, s.sessionsWf = true → s.callAllowed = true → ∃ t, step s = .next t

/-- R37: sessions are independent. What a delivery does to its session and what it emits are the same in any two states
that agree on that session, whatever the other sessions, the trace and the results are. -/
def Obligations.SessionsAreIndependent : Prop :=
  ∀ (s u s' : State) (k : Nat) (bs : List Byte) (rest rest' : List HostCall),
    s.pending = .deliver k bs :: rest → u.pending = .deliver k bs :: rest' → s.session? k = u.session? k →
    step s = .next s' →
    ∃ u' es, step u = .next u' ∧ s'.session? k = u'.session? k ∧
      s'.trace = s.trace ++ es ∧ u'.trace = u.trace ++ es ∧
      ∀ j, j ≠ k → s'.session? j = s.session? j ∧ u'.session? j = u.session? j

/-- R195 and R31: nothing the machine does depends on what was logged, sent, dispatched or returned before. -/
def Obligations.TraceIsNeverReadBack : Prop :=
  ∀ (s : State) (tr : List Record) (rs : List Return),
    step { s with trace := tr ++ s.trace, returns := rs ++ s.returns } =
      match step s with
      | .next t => .next { t with trace := tr ++ t.trace, returns := rs ++ t.returns }
      | .fault r => .fault r
      | .refused r => .refused r

/-! The commands. -/

/-- R175, R176, R178, R180, R182: each of the four commands completes whatever the sessions hold and touches none. Where
the argument is not valid it fails InvalidData with no other effect; where it is, it transmits exactly one frame, a valid
one of a `dev` type, and returns ok or UartError as the capability answered. Valid is `toolIdValid` (D17, log 20),
`toolNameValid` (D14 to D16, logs 9 and 19), and both Booleans. The answer as an argument of the call is log 8, the recorded
result log 15. -/
def Obligations.CommandsTransmitOnceOrHaveNoEffect : Prop :=
  ∀ (s : State) (c : HostCall) (valid answer : Bool) (rest : List HostCall), s.pending = c :: rest →
    ((∃ id, c = .setToolId id answer ∧ valid = toolIdValid id) ∨
      (∃ name, c = .setToolName name answer ∧ valid = toolNameValid Config.emptyNameOk name) ∨
      (∃ e, c = .setFollowMode e answer ∧ valid = true) ∨ (∃ v, c = .setRfidValidity v answer ∧ valid = true)) →
    ∃ t, step s = .next t ∧ t.sessions = s.sessions ∧ t.link = s.link ∧ t.pending = rest ∧
      (valid = false → t.trace = s.trace ∧ t.returns = s.returns ++ [.command (.err .invalidData)]) ∧
      (valid = true →
        ∃ f, devFrame f = true ∧ t.trace = s.trace ++ [⟨.command, .transmit f answer⟩] ∧
          t.returns = s.returns ++ [.command (if answer then .ok () else .err .uartError)])

/-- R180 and R38: a command or a direct call (log 32) does the same whatever the sessions hold, and leaves them as they
are: no register of a session reaches the host this way. -/
def Obligations.CallsDoNotDependOnSessions : Prop :=
  ∀ (s : State) (c : HostCall) (rest : List HostCall) (other : List (Option Session)), s.pending = c :: rest →
    (∀ k bs, c ≠ .deliver k bs) → (∀ k a b, c ≠ .overlap k a b) → c ≠ .createSession → (∀ k, c ≠ .dropSession k) →
    ∃ t, step s = .next t ∧ t.sessions = s.sessions ∧
      step { s with sessions := other } = .next { t with sessions := other }

/-- R166, R167, R178: `setToolId` transmits `8A 01 id 51` for 1 to 6 and fails InvalidData for every other integer (any
integer is the spec's decision D17, log 20). -/
def Obligations.SetToolIdValidatesThenTransmits : Prop :=
  ∀ (s : State) (id : Int) (answer : Bool) (rest : List HostCall), s.pending = .setToolId id answer :: rest →
    (∀ n : Nat, id = n → 1 ≤ n → n ≤ 6 →
      step s = .next ((State.emit { s with pending := rest } .command
        [.transmit [0x8A#8, 0x01#8, BitVec.ofNat 8 n, 0x51#8] answer]).give
          (.command (if answer then .ok () else .err .uartError)))) ∧
    (id ≤ 0 ∨ 7 ≤ id → step s = .next (State.give { s with pending := rest } (.command (.err .invalidData))))

/-- R168 to R171: `setToolName` transmits the padded name when every character is an ASCII letter or digit, and fails
InvalidData when one is not, wherever it stands (the spec's decisions D14 and D16, log 19); the empty name is accepted
exactly when the open parameter EMPTY_NAME_OK is true (D15, log 9). -/
def Obligations.SetToolNameValidatesThenTransmits : Prop :=
  ∀ (s : State) (name : List Nat) (answer : Bool) (rest : List HostCall), s.pending = .setToolName name answer :: rest →
    ((∀ ch ∈ name, (0x30 ≤ ch ∧ ch ≤ 0x39) ∨ (0x41 ≤ ch ∧ ch ≤ 0x5A) ∨ (0x61 ≤ ch ∧ ch ≤ 0x7A)) →
      (name = [] → Config.emptyNameOk = true) →
      step s = .next ((State.emit { s with pending := rest } .command
        [.transmit ([0x8A#8, 0x02#8] ++ pad16 name ++ [0x51#8]) answer]).give
          (.command (if answer then .ok () else .err .uartError)))) ∧
    ((∃ ch ∈ name, ¬ ((0x30 ≤ ch ∧ ch ≤ 0x39) ∨ (0x41 ≤ ch ∧ ch ≤ 0x5A) ∨ (0x61 ≤ ch ∧ ch ≤ 0x7A))) →
      step s = .next (State.give { s with pending := rest } (.command (.err .invalidData)))) ∧
    (name = [] → Config.emptyNameOk = false →
      step s = .next (State.give { s with pending := rest } (.command (.err .invalidData))))

/-- R170: for a valid name `pad16` is 16 bytes, the character codes of the first 16 characters and then 0x20. The
character codes and 0x20 are general knowledge G1 (log 27), which names are valid is the spec's decision D14 (log 19). -/
def Obligations.Pad16PadsOrTruncates : Prop :=
  ∀ name : List Nat, name.all alnum = true →
    (pad16 name).length = 16 ∧
    ∀ i, i < 16 → (pad16 name)[i]?.map BitVec.toNat = some (name[i]?.getD 0x20)

/-- R172 and R173: the two Boolean commands transmit their frame on every call, 1 for true and 0 for false, and fail only
with UartError. -/
def Obligations.BooleanCommandsTransmit : Prop :=
  ∀ (s : State) (v answer : Bool) (rest : List HostCall),
    (s.pending = .setFollowMode v answer :: rest →
      step s = .next ((State.emit { s with pending := rest } .command
        [.transmit [0x8A#8, 0x04#8, if v then 0x01#8 else 0x00#8, 0x51#8] answer]).give
          (.command (if answer then .ok () else .err .uartError)))) ∧
    (s.pending = .setRfidValidity v answer :: rest →
      step s = .next ((State.emit { s with pending := rest } .command
        [.transmit [0x8A#8, 0x08#8, if v then 0x01#8 else 0x00#8, 0x51#8] answer]).give
          (.command (if answer then .ok () else .err .uartError))))

/-- R180, R237 and R151: whatever a run of the machine has transmitted, echoed back into an idle session, changes no
session and emits nothing. -/
def Obligations.EchoOfATransmittedFrameIsDropped : Prop :=
  ∀ (s : State) (f : List Byte) (answer : Bool) (k : Nat) (rest : List HostCall), s.Inv →
    ⟨.command, .transmit f answer⟩ ∈ s.trace → s.session? k = some Session.new → s.pending = .deliver k f :: rest →
    step s = .next { s with pending := rest, link := k }

/-! Sessions and the direct calls. -/

/-- R220 and R222: a created session is new (D3, log 6) and has a link of its own, no other session changes; a dropped one
is gone with what it holds, nothing is emitted and no other session changes. That the host creates sessions without bound
(D21, log 10), that the end of a link is a call that records nothing (log 7) and that a creation records its link number
(log 15) are the model's choices. -/
def Obligations.SessionsAreCreatedAndDropped : Prop :=
  ∀ (s : State) (rest : List HostCall),
    (s.pending = .createSession :: rest →
      ∃ t, step s = .next t ∧ t.session? s.sessions.length = some ⟨.idle, 0, []⟩ ∧
        (∀ k, k < s.sessions.length → t.session? k = s.session? k) ∧ t.trace = s.trace ∧ t.pending = rest ∧
        t.link = s.link ∧ t.returns = s.returns ++ [.created s.sessions.length]) ∧
    (∀ k ss, s.pending = .dropSession k :: rest → s.session? k = some ss →
      ∃ t, step s = .next t ∧ t.session? k = none ∧ (∀ j, j ≠ k → t.session? j = s.session? j) ∧
        t.trace = s.trace ∧ t.pending = rest ∧ t.link = s.link ∧ t.returns = s.returns)

/-- A direct call of LOOKUP, ENCODE or DECODE gives the result back and writes nothing else. That the three are pure is
R49; that the host can call them directly is the model's choice (log 32), and so is the record of the result (log 15). -/
def Obligations.DirectCallsArePure : Prop :=
  ∀ (s : State) (rest : List HostCall),
    (∀ c, s.pending = .lookup c :: rest →
      step s = .next (State.give { s with pending := rest } (.lookup (lookup c)))) ∧
    (∀ c p, s.pending = .encode c p :: rest →
      step s = .next (State.give { s with pending := rest } (.encode (encodeFrame c p)))) ∧
    (∀ f, s.pending = .decode f :: rest →
      step s = .next (State.give { s with pending := rest } (.decode (decodeFrame f))))
end

