-- ==== Sys2Proof/Laws/Codec.lean ====
section
/-! SUPPORT. What LOOKUP can answer, and one spec lemma for each of ENCODE and DECODE. -/

namespace Sys2Proof.Machine

/-- LOOKUP's answer is one of the seven entries, under its code. -/
theorem lookup_cases {c : Byte} {T : Descriptor} (h : lookup c = some T) :
    (c = 0x01#8 ∧ T = ⟨.toolId, .dev, 1, .int 1 6⟩) ∨ (c = 0x02#8 ∧ T = ⟨.toolName, .dev, 16, .text⟩) ∨
    (c = 0x04#8 ∧ T = ⟨.followModeEnable, .dev, 1, .bool⟩) ∨ (c = 0x08#8 ∧ T = ⟨.rfidValid, .dev, 1, .bool⟩) ∨
    (c = 0x81#8 ∧ T = ⟨.batteryLevel, .per, 1, .int 0 255⟩) ∨ (c = 0x82#8 ∧ T = ⟨.armStatus, .per, 1, .armState⟩) ∨
    (c = 0x84#8 ∧ T = ⟨.rfidValue, .per, 4, .rawBytes⟩) := by
  have hp := List.find?_some h
  have hm := List.mem_of_find?_eq_some h
  simp only [beq_iff_eq] at hp
  simp only [registry, List.mem_cons, List.not_mem_nil, or_false] at hm
  rcases hm with rfl | rfl | rfl | rfl | rfl | rfl | rfl <;> simp_all [TypeName.code]

/-- A looked-up length is between 1 and 16. -/
theorem lookup_length {c : Byte} {T : Descriptor} (h : lookup c = some T) : 1 ≤ T.length ∧ T.length ≤ 16 := by
  rcases lookup_cases h with ⟨-, rfl⟩ | ⟨-, rfl⟩ | ⟨-, rfl⟩ | ⟨-, rfl⟩ | ⟨-, rfl⟩ | ⟨-, rfl⟩ | ⟨-, rfl⟩ <;> simp

/-- A looked-up entry stands under its own code. -/
theorem lookup_code {c : Byte} {T : Descriptor} (h : lookup c = some T) : T.name.code = c := by
  simpa using List.find?_some h

/-- Everything DECODE can answer with success. -/
theorem decodeFrame_ok_iff (f : List Byte) (T : Descriptor) (p : List Byte) :
    decodeFrame f = .ok (T, p) ↔
      ∃ c, f = frameBytes c p ∧ lookup c = some T ∧ p.length = T.length := by
  constructor
  · intro h
    match f with
    | [] => simp [decodeFrame] at h
    | [_] => simp [decodeFrame] at h
    | [_, _] => simp [decodeFrame] at h
    | x :: c :: y :: rest =>
      simp only [decodeFrame, List.length_cons] at h
      split at h
      · cases h
      split at h
      · cases h
      split at h
      · cases h
      rename_i _ hx hz
      simp at hx hz
      subst hx
      cases hl : lookup c with
      | none => simp [hl] at h
      | some T' =>
        simp only [List.getElem?_cons_succ, List.getElem?_cons_zero, Option.bind_some, hl] at h
        split at h
        · cases h
        rename_i hn
        simp only [Result.ok.injEq, Prod.mk.injEq] at h
        obtain ⟨hT, hp⟩ := h
        subst hT
        refine ⟨c, ?_, hl, ?_⟩
        · have hne : (y :: rest) ≠ [] := by simp
          have hp' : p = (y :: rest).dropLast := by
            rw [← hp, List.dropLast_eq_take]; simp [slice]
          have hlast : (y :: rest).getLast hne = Config.STOP := by
            have h1 : (y :: rest).getLast? = some Config.STOP := by
              rw [List.getLast?_eq_getElem?]; simpa using hz
            rw [List.getLast?_eq_some_getLast hne] at h1
            exact Option.some.inj h1
          have hcat := List.dropLast_append_getLast hne
          rw [hlast] at hcat
          rw [frameBytes, hp', hcat]
        · rw [← hp]; simp [slice] at hn ⊢; omega
  · rintro ⟨c, rfl, hl, hp⟩
    have h1 := (lookup_length hl).1
    have hz : (frameBytes c p)[(frameBytes c p).length - 1]? = some Config.STOP := by
      have : (frameBytes c p).length - 1 = p.length + 2 := by simp [frameBytes]
      rw [this]
      simp [frameBytes]
    have hn : (frameBytes c p).length = p.length + 3 := by simp [frameBytes]
    have hs : slice (frameBytes c p) 2 ((frameBytes c p).length - 1) = p := by
      rw [hn]; simp [slice, frameBytes]
    simp only [decodeFrame, hs, hz]
    rw [if_neg (by rw [hn]; simp), if_neg (by simp [frameBytes]), if_neg (by simp)]
    have hb : (frameBytes c p)[1]?.bind lookup = some T := by simp [frameBytes, hl]
    rw [hb]
    simp only
    rw [if_neg (by rw [hn]; omega)]

/-- Everything ENCODE can answer with success. -/
theorem encodeFrame_ok_iff (c : Byte) (p f : List Byte) :
    encodeFrame c p = .ok f ↔ ∃ T, lookup c = some T ∧ p.length = T.length ∧ f = frameBytes c p := by
  unfold encodeFrame
  cases hl : lookup c with
  | none => simp
  | some T =>
    have h16 := (lookup_length hl).2
    simp only [frameBytes]
    split
    · rename_i hgt
      simp only [Config.MAX_PAYLOAD] at hgt
      constructor
      · intro h; cases h
      · rintro ⟨T', h, hp, -⟩; cases h; omega
    · split
      · rename_i hne
        constructor
        · intro h; cases h
        · rintro ⟨T', h, hp, -⟩; cases h; exact absurd hp hne
      · rename_i heq
        constructor
        · intro h; cases h; exact ⟨T, rfl, by simpa using heq, by simp⟩
        · rintro ⟨T', h, -, rfl⟩; simp

/-- DECODE of a buffer of a known type with its payload complete: the last byte decides. -/
theorem decodeFrame_footer {c : Byte} {T : Descriptor} {p : List Byte} (hl : lookup c = some T)
    (hp : p.length = T.length) (b : Byte) :
    decodeFrame (Config.START :: c :: (p ++ [b])) = if b = Config.STOP then .ok (T, p) else .err .invalidFrameEnd := by
  split
  · rename_i hb
    subst hb
    exact (decodeFrame_ok_iff _ _ _).2 ⟨c, rfl, hl, hp⟩
  · rename_i hb
    simp at hb
    simp [decodeFrame, hb]

/-- DECODE of the buffer an unknown type code leaves: it fails, by the last byte. -/
theorem decodeFrame_unknown {c : Byte} (hl : lookup c = none) (b : Byte) :
    decodeFrame [Config.START, c, b] =
      .err (if b = Config.STOP then .unknownMessageType else .invalidFrameEnd) := by
  by_cases hb : b = 0x51#8 <;> simp [decodeFrame, hb, hl]

/-- What the decoder makes of a type code and the bytes between it and the last byte. -/
theorem decodeBody_spec (c : Byte) (p : List Byte) :
    (lookup c = none → decodeBody c p = .rejected (.error .unknownMessageType)) ∧
    ∀ T, lookup c = some T →
      (p.length ≠ T.length → decodeBody c p = .rejected (.error .invalidPayloadLength)) ∧
      (p.length = T.length → ∃ i, decodeBody c p = .instr i) := by
  have one : ∀ (mk : Byte → Instr) q, (q.length ≠ 1 → decodeOne mk q = .rejected (.error .invalidPayloadLength)) ∧
      (q.length = 1 → ∃ i, decodeOne mk q = .instr i) := by
    intro mk q
    match q with
    | [] => simp [decodeOne]
    | [v] => simp [decodeOne]
    | _ :: _ :: _ => simp [decodeOne]
  constructor
  · intro h
    have hn : ∀ x : Byte, (lookup x).isSome → c ≠ x := by rintro x hx rfl; simp [h] at hx
    simp [decodeBody, hn 0x01#8 rfl, hn 0x02#8 rfl, hn 0x04#8 rfl, hn 0x08#8 rfl, hn 0x81#8 rfl, hn 0x82#8 rfl,
      hn 0x84#8 rfl]
  · intro T h
    rcases lookup_cases h with ⟨rfl, rfl⟩ | ⟨rfl, rfl⟩ | ⟨rfl, rfl⟩ | ⟨rfl, rfl⟩ | ⟨rfl, rfl⟩ | ⟨rfl, rfl⟩ | ⟨rfl, rfl⟩
    case inl | inr.inr.inl | inr.inr.inr.inl | inr.inr.inr.inr.inl | inr.inr.inr.inr.inr.inl => exact one _ p
    all_goals simp +contextual [decodeBody, decodeMany]

end Sys2Proof.Machine
end

