-- ==== Sys2Proof/Laws/State.lean ====
section
/-! SUPPORT. One lemma per field per update of the state and of a session, and what reading a session back gives. -/

namespace Sys2Proof.Machine

variable (s : State) (ss : Session) (k j : Nat) (b : Byte) (o : Origin) (es : List Event) (r : Return)

@[simp] theorem State.setSession_sessions : (s.setSession k ss).sessions = s.sessions.set k (some ss) := rfl
@[simp] theorem State.setSession_link : (s.setSession k ss).link = s.link := rfl
@[simp] theorem State.setSession_pending : (s.setSession k ss).pending = s.pending := rfl
@[simp] theorem State.setSession_trace : (s.setSession k ss).trace = s.trace := rfl
@[simp] theorem State.setSession_returns : (s.setSession k ss).returns = s.returns := rfl

@[simp] theorem State.emit_sessions : (s.emit o es).sessions = s.sessions := rfl
@[simp] theorem State.emit_link : (s.emit o es).link = s.link := rfl
@[simp] theorem State.emit_pending : (s.emit o es).pending = s.pending := rfl
@[simp] theorem State.emit_trace : (s.emit o es).trace = s.trace ++ es.map fun e => ⟨o, e⟩ := rfl
@[simp] theorem State.emit_returns : (s.emit o es).returns = s.returns := rfl

@[simp] theorem State.give_sessions : (s.give r).sessions = s.sessions := rfl
@[simp] theorem State.give_link : (s.give r).link = s.link := rfl
@[simp] theorem State.give_pending : (s.give r).pending = s.pending := rfl
@[simp] theorem State.give_trace : (s.give r).trace = s.trace := rfl
@[simp] theorem State.give_returns : (s.give r).returns = s.returns ++ [r] := rfl

@[simp] theorem Session.append_pstate : (ss.append b).pstate = ss.pstate := rfl
@[simp] theorem Session.append_remaining : (ss.append b).remaining = ss.remaining := rfl
@[simp] theorem Session.append_buf : (ss.append b).buf = ss.buf ++ [b] := rfl

@[simp] theorem Session.new_pstate : Session.new.pstate = .idle := rfl
@[simp] theorem Session.new_remaining : Session.new.remaining = 0 := rfl
@[simp] theorem Session.new_buf : Session.new.buf = [] := rfl

/-- The end of an attempt leaves the session as it was at creation. -/
@[simp] theorem Session.endAttempt_eq_new : ss.endAttempt = Session.new := rfl

@[simp] theorem State.session?_emit : (s.emit o es).session? k = s.session? k := rfl
@[simp] theorem State.session?_give : (s.give r).session? k = s.session? k := rfl

@[simp] theorem State.session?_withPending (cs : List HostCall) : State.session? { s with pending := cs } k = s.session? k :=
  rfl

@[simp] theorem State.session?_withLink : State.session? { s with link := j } k = s.session? k := rfl

/-- Emitting nothing changes nothing. -/
@[simp] theorem State.emit_nil : s.emit o [] = s := by simp [State.emit]

variable {s ss k j}

/-- A link that has a session is one of the slots. -/
theorem State.lt_of_session? (h : s.session? k = some ss) : k < s.sessions.length := by
  unfold State.session? at h
  by_contra hk
  rw [List.getElem?_eq_none (Nat.le_of_not_lt hk)] at h
  cases h

/-- The slot itself, of a link that has a session. -/
theorem State.getElem?_of_session? (h : s.session? k = some ss) : s.sessions[k]? = some (some ss) := by
  unfold State.session? at h
  match hs : s.sessions[k]? with
  | some (some x) => rw [hs] at h; simpa using h
  | some none => rw [hs] at h; cases h
  | none => rw [hs] at h; cases h

/-- A written session is read back. -/
theorem State.session?_setSession_self {x : Session} (h : s.session? k = some x) (y : Session) :
    (s.setSession k y).session? k = some y := by
  simp [State.session?, State.lt_of_session? h]

/-- Writing one link's session leaves the others. -/
theorem State.session?_setSession_ne (hj : j ≠ k) (y : Session) : (s.setSession k y).session? j = s.session? j := by
  simp [State.session?, List.getElem?_set_ne (Ne.symm hj)]

/-- Writing back the session that is there changes nothing. -/
theorem State.setSession_same (h : s.session? k = some ss) : s.setSession k ss = s := by
  have hk := State.getElem?_of_session? h
  have : s.sessions.set k (some ss) = s.sessions := by
    apply List.ext_getElem?
    intro i
    by_cases hi : k = i
    · subst hi; rw [List.getElem?_set_self (State.lt_of_session? h), hk]
    · rw [List.getElem?_set_ne hi]
  simp [State.setSession, this]

end Sys2Proof.Machine
end

