-- ==== Sys2Proof/Laws/Commands.lean ====
section
/-! SUPPORT. SEND on a payload of the registry length: ENCODE cannot fail there. -/

namespace Sys2Proof.Machine

/-- Everything SEND does for a payload of the length its type has. -/
theorem send_of_length {c : Byte} {T : Descriptor} {p : List Byte} (hl : lookup c = some T) (hp : p.length = T.length)
    (answer : Bool) (s : State) :
    send c p answer s =
      (s.emit .command [.transmit (frameBytes c p) answer]).give (.command (if answer then .ok () else .err .uartError)) := by
  have h : encodeFrame c p = .ok (frameBytes c p) := (encodeFrame_ok_iff c p _).2 ⟨T, hl, hp, rfl⟩
  simp [send, h]

/-- `pad16` gives 16 bytes. -/
@[simp] theorem pad16_length (name : List Nat) : (pad16 name).length = 16 := by
  simp [pad16]

end Sys2Proof.Machine
end

