-- ==== Sys2Proof/Laws/Dispatcher.lean ====
section
/-! SUPPORT. What hexadecimal strings are made of, and everything DISPATCH can emit for a registry entry. -/

namespace Sys2Proof.Machine

@[simp] theorem hexString_length (p : List Byte) : (hexString p).length = 2 * p.length := by
  induction p with
  | nil => rfl
  | cons b p ih => simp [hexString, ih]; omega

theorem hexDigit_mem (d : BitVec 4) : hexChars.contains (hexDigit d) = true := by revert d; decide

theorem hexString_all (p : List Byte) : ((hexString p).all fun ch => hexChars.contains ch) = true := by
  induction p with
  | nil => rfl
  | cons b p ih => rw [hexString, List.all_cons, List.all_cons, ih]; simp only [hexDigit_mem, Bool.and_self]

/-- A `dev` type is dropped. -/
theorem dispatch_dev {T : Descriptor} (h : T.dir = .dev) (p : List Byte) : dispatch T p = [] := by
  simp [dispatch, h]

/-- Everything DISPATCH can emit for an entry of the registry and a payload of its length. -/
theorem dispatch_cases {c : Byte} {T : Descriptor} {p : List Byte} (hl : lookup c = some T) (hp : p.length = T.length) :
    dispatch T p = [] ∨
    (∃ h, dispatch T p = [.rfidReceived h] ∧ Event.fromSession (.rfidReceived h) = true) ∨
    (∃ n, dispatch T p = [.batteryLevel n] ∧ n ≤ 255) ∨
    (∃ a, dispatch T p = [.armStateChanged a]) ∨
    dispatch T p = [.log (.dispatchFailed .invalidData)] := by
  rcases lookup_cases hl with ⟨-, rfl⟩ | ⟨-, rfl⟩ | ⟨-, rfl⟩ | ⟨-, rfl⟩ | ⟨-, rfl⟩ | ⟨-, rfl⟩ | ⟨-, rfl⟩
  case inl | inr.inl | inr.inr.inl | inr.inr.inr.inl => exact .inl rfl
  · match p, hp with
    | [v], _ => exact .inr (.inr (.inl ⟨v.toNat, rfl, Nat.le_of_lt_succ v.isLt⟩))
  · match p, hp with
    | [v], _ =>
      cases ha : armState v with
      | none => exact .inr (.inr (.inr (.inr (by simp [dispatch, dispatchArmStatus, ha]))))
      | some a => exact .inr (.inr (.inr (.inl ⟨a, by simp [dispatch, dispatchArmStatus, ha]⟩)))
  · refine .inr (.inl ⟨_, rfl, ?_⟩)
    simp only [Event.fromSession, hexString_length, hexString_all, hp]
    rfl

end Sys2Proof.Machine
end

