-- ==== Sys2Proof/Laws/Memory.lean ====
section
/-! SUPPORT. The laws of the buffer: its form is kept by every buffer operation that stays within capacity, and a read
after an append gives what the append wrote and leaves every other address alone. -/

namespace Sys2Proof.Machine

/-- The addresses of a buffer rise strictly, whatever it holds. -/
theorem Memory.cells_rising (m : Memory) : m.cells.Pairwise fun x y => x.1 < y.1 := by
  simp only [Memory.cells, List.pairwise_map]
  have h : m.zipIdx.Pairwise fun x y => x.2 < y.2 := by
    have := List.pairwise_lt_range' (s := 0) (n := m.length) (step := 1)
    rw [← List.zipIdx_map_snd 0 m, List.pairwise_map] at this
    exact this
  exact h

/-- The form of a buffer is its capacity. -/
theorem Memory.wf_iff (m : Memory) : m.wf = true ↔ m.length ≤ Config.BUF_CAP := by
  simp [Memory.wf, Memory.cells_rising]

theorem Memory.wf_start (b : Byte) : (Memory.start b).wf = true := by
  simp [Memory.wf_iff, Memory.start]

theorem Memory.wf_clear : Memory.clear.wf = true := by
  simp [Memory.wf_iff, Memory.clear]

theorem Memory.wf_append {m : Memory} (b : Byte) (h : m.length < Config.BUF_CAP) : (m.append b).wf = true := by
  rw [Memory.wf_iff, Memory.append, List.length_append, List.length_singleton]; omega

/-- An append writes its byte at the old length. -/
theorem Memory.read_append_new (m : Memory) (b : Byte) : (m.append b).read m.length = some b := by
  simp [Memory.read, Memory.append]

/-- An append leaves every other address as it was. -/
theorem Memory.read_append_other {m : Memory} (b : Byte) {a : Nat} (h : a ≠ m.length) : (m.append b).read a = m.read a := by
  simp only [Memory.read, Memory.append]
  rcases Nat.lt_or_gt_of_ne h with h | h
  · exact List.getElem?_append_left h
  · rw [List.getElem?_eq_none (by simp; omega), List.getElem?_eq_none (by omega)]

/-- The buffer of a new session has the form. -/
theorem Memory.wf_new : Session.new.buf.wf = true := by
  simp [Memory.wf_iff]

end Sys2Proof.Machine
end

