-- ==== Sys2Proof/Laws/Parser.lean ====
section
/-! SUPPORT. What a well-formed session looks like, how FEEDS composes, everything the shared operation `receive` can do,
and that every instruction is `receive` of its bytes. -/

namespace Sys2Proof.Machine

/-- The five shapes of a well-formed session. -/
theorem Session.wf_cases {ss : Session} (h : ss.wf = true) :
    ss = Session.new ∨ ss = ⟨.readingHeader, 1, [Config.START]⟩ ∨
    (∃ c T p, lookup c = some T ∧ p.length < T.length ∧
      ss = ⟨.readingPayload, T.length - p.length, Config.START :: c :: p⟩) ∨
    (∃ c, lookup c = none ∧ ss = ⟨.readingPayload, 0, [Config.START, c]⟩) ∨
    (∃ c T p, lookup c = some T ∧ p.length = T.length ∧ ss = ⟨.readingFooter, 1, Config.START :: c :: p⟩) := by
  obtain ⟨st, r, buf⟩ := ss
  cases st with
  | idle => left; simp [Session.wf] at h; simp [Session.new, h.1, h.2]
  | readingHeader => right; left; simp [Session.wf] at h; simp [h.1, h.2]
  | readingPayload =>
    match buf, h with
    | [], h => simp [Session.wf] at h
    | [_], h => simp [Session.wf] at h
    | b0 :: c :: p, h =>
      cases hl : lookup c with
      | none =>
        simp [Session.wf, hl] at h
        obtain ⟨rfl, rfl, rfl⟩ := h
        exact .inr (.inr (.inr (.inl ⟨c, hl, rfl⟩)))
      | some T =>
        simp [Session.wf, hl] at h
        obtain ⟨rfl, ⟨h1, h2⟩, h3⟩ := h
        refine .inr (.inr (.inl ⟨c, T, p, hl, by omega, ?_⟩))
        simp only [Session.mk.injEq, true_and, and_true]; omega
  | readingFooter =>
    match buf, h with
    | [], h => simp [Session.wf] at h
    | [_], h => simp [Session.wf] at h
    | b0 :: c :: p, h =>
      cases hl : lookup c with
      | none => simp [Session.wf, hl] at h
      | some T =>
        simp [Session.wf, hl] at h
        obtain ⟨⟨rfl, rfl⟩, h3⟩ := h
        exact .inr (.inr (.inr (.inr ⟨c, T, p, hl, h3, rfl⟩)))

/-- Everything FEED can do on a well-formed session: the eight rows of the transition table (R140). -/
theorem feed_cases {ss : Session} (h : ss.wf = true) (b : Byte) :
    (ss = Session.new ∧ b ≠ Config.START ∧ feed ss b = (Session.new, [])) ∨
    (ss = Session.new ∧ b = Config.START ∧ feed ss b = (⟨.readingHeader, 1, [Config.START]⟩, [])) ∨
    (ss = ⟨.readingHeader, 1, [Config.START]⟩ ∧ ∃ T, lookup b = some T ∧
      feed ss b = (⟨.readingPayload, T.length, [Config.START, b]⟩, [])) ∨
    (ss = ⟨.readingHeader, 1, [Config.START]⟩ ∧ lookup b = none ∧
      feed ss b = (⟨.readingPayload, 0, [Config.START, b]⟩, [.log (.unknownTypeAtHeader b)])) ∨
    (∃ c T p, lookup c = some T ∧ p.length + 1 < T.length ∧
      ss = ⟨.readingPayload, T.length - p.length, Config.START :: c :: p⟩ ∧
      feed ss b = (⟨.readingPayload, T.length - (p.length + 1), Config.START :: c :: (p ++ [b])⟩, [])) ∨
    (∃ c T p, lookup c = some T ∧ p.length + 1 = T.length ∧
      ss = ⟨.readingPayload, T.length - p.length, Config.START :: c :: p⟩ ∧
      feed ss b = (⟨.readingFooter, 1, Config.START :: c :: (p ++ [b])⟩, [])) ∨
    (∃ c, lookup c = none ∧ ss = ⟨.readingPayload, 0, [Config.START, c]⟩ ∧
      feed ss b = (Session.new, [.log (.decodeFailed (if b = Config.STOP then .unknownMessageType else .invalidFrameEnd))])) ∨
    (∃ c T p, lookup c = some T ∧ p.length = T.length ∧ ss = ⟨.readingFooter, 1, Config.START :: c :: p⟩ ∧
      feed ss b = (Session.new, if b = Config.STOP then dispatch T p else [.log (.decodeFailed .invalidFrameEnd)])) := by
  rcases Session.wf_cases h with rfl | rfl | ⟨c, T, p, hl, hlt, rfl⟩ | ⟨c, hl, rfl⟩ | ⟨c, T, p, hl, hp, rfl⟩
  · by_cases hb : b = Config.START
    · exact .inr (.inl ⟨rfl, hb, by simp only [feed, Session.new_pstate, feedIdle, hb, if_true]; rfl⟩)
    · exact .inl ⟨rfl, hb, by simp only [feed, Session.new_pstate, feedIdle, hb, if_false]⟩
  · cases hl : lookup b with
    | some T => exact .inr (.inr (.inl ⟨rfl, T, rfl, by simp [feed, feedHeader, hl, Session.append, Memory.append]⟩))
    | none =>
      exact .inr (.inr (.inr (.inl ⟨rfl, rfl, by simp [feed, feedHeader, hl, Session.append, Memory.append]⟩)))
  · have h0 : T.length - p.length ≠ 0 := by omega
    by_cases h1 : p.length + 1 = T.length
    · refine .inr (.inr (.inr (.inr (.inr (.inl ⟨c, T, p, hl, h1, rfl, ?_⟩)))))
      have h2 : T.length - p.length = 1 := by omega
      simp [feed, feedPayload, h2, Session.append, Memory.append]
    · refine .inr (.inr (.inr (.inr (.inl ⟨c, T, p, hl, by omega, rfl, ?_⟩))))
      have h2 : T.length - p.length ≠ 1 := by omega
      have h3 : T.length - p.length - 1 = T.length - (p.length + 1) := by omega
      simp only [feed, feedPayload, h0, if_false, h2, h3, Session.append, Memory.append, List.cons_append]
  · refine .inr (.inr (.inr (.inr (.inr (.inr (.inl ⟨c, hl, rfl, ?_⟩))))))
    have hd := decodeFrame_unknown hl b
    simp only [feed, feedPayload, if_true, finish, Session.append_buf, List.cons_append, List.nil_append, hd, takeError,
      Session.endAttempt_eq_new]
  · refine .inr (.inr (.inr (.inr (.inr (.inr (.inr ⟨c, T, p, hl, hp, rfl, ?_⟩))))))
    have hd := decodeFrame_footer hl hp b
    simp only [feed, feedFooter, finish, Session.append_buf, List.cons_append, hd]
    by_cases hb : b = Config.STOP
    · simp only [hb, if_true, Session.endAttempt_eq_new]
    · simp only [hb, if_false, takeError, Session.endAttempt_eq_new]

/-- A new session is well formed. -/
@[simp] theorem Session.wf_new : Session.new.wf = true := rfl

@[simp] theorem feeds_nil (ss : Session) : feeds ss [] = (ss, []) := rfl

/-- FEEDS of one byte first. -/
theorem feeds_cons (ss : Session) (b : Byte) (bs : List Byte) :
    feeds ss (b :: bs) = ((feeds (feed ss b).1 bs).1, (feed ss b).2 ++ (feeds (feed ss b).1 bs).2) := rfl

/-- FEEDS of one byte is FEED. -/
@[simp] theorem feeds_singleton (ss : Session) (b : Byte) : feeds ss [b] = feed ss b := by
  simp [feeds_cons]

/-- FEEDS over a cut of the stream. -/
theorem feeds_append (ss : Session) (a b : List Byte) :
    feeds ss (a ++ b) = ((feeds (feeds ss a).1 b).1, (feeds ss a).2 ++ (feeds (feeds ss a).1 b).2) := by
  induction a generalizing ss with
  | nil => simp
  | cons x a ih => simp [feeds_cons, ih]

/-- `receive` where FEED is specified. -/
theorem receive_of_ready {s : State} {ss : Session} (h : s.Ready s.link ss) (bs : List Byte) :
    receive bs s = .next ((s.setSession s.link (feeds ss bs).1).emit (.link s.link) (feeds ss bs).2) := by
  simp [receive, h.1, h.2]

/-- Everything `receive` can do when it answers a next state. -/
theorem receive_next {s t : State} {bs : List Byte} (h : receive bs s = .next t) :
    ∃ ss, s.Ready s.link ss ∧ t = (s.setSession s.link (feeds ss bs).1).emit (.link s.link) (feeds ss bs).2 := by
  unfold receive at h
  cases hs : s.session? s.link with
  | none => rw [hs] at h; cases h
  | some ss =>
    rw [hs] at h
    by_cases hw : ss.wf = true
    · simp only [hw, if_true, Host.Outcome.next.injEq] at h
      exact ⟨ss, ⟨hs, hw⟩, h.symm⟩
    · simp [hw] at h

/-- Every session well formed, link by link. -/
theorem State.sessionsWf_iff (s : State) : s.sessionsWf = true ↔ ∀ k ss, s.session? k = some ss → ss.wf = true := by
  simp only [State.sessionsWf, List.all_eq_true]
  constructor
  · intro h k ss hk
    simpa using h _ (List.mem_of_getElem? (State.getElem?_of_session? hk))
  · intro h o ho
    cases o with
    | none => rfl
    | some ss =>
      obtain ⟨k, hk⟩ := List.mem_iff_getElem?.1 ho
      simpa using h k ss (by simp [State.session?, hk])

/-- Every instruction is the delivery of its bytes. -/
theorem exec_eq_receive (i : Instr) (s : State) : exec i s = receive (encode i) s := by
  cases i <;> rfl

end Sys2Proof.Machine
end

