-- ==== Sys2Proof/Laws/PerInstr.lean ====
section
/-! SUPPORT. Facts about every instruction as syntax, one lemma per constructor. -/

namespace Sys2Proof.Laws.MatchesTable

/-- The bytes of a well-formed instruction fill its row of the table exactly and carry the row's `match` under its
`mask`. -/
def Statement (i : Instr) : Prop :=
  i.wf = true → (encode i).length * 8 = (tableRow i).nbits ∧
    List.zipWith (· &&& ·) (encode i) (wordBytes (tableRow i).nbits (tableRow i).mask) =
      wordBytes (tableRow i).nbits (tableRow i).value


/-- The bytes under a mask that keeps nothing. -/
theorem zipWith_and_zero (p : List Byte) :
    List.zipWith (· &&& ·) p (List.replicate p.length 0x00#8) = List.replicate p.length 0x00#8 := by
  induction p with
  | nil => rfl
  | cons x p ih => simp [List.replicate_succ, ih]

theorem toolId (v : Byte) : Statement (.toolId v) := by
  intro _
  refine ⟨rfl, ?_⟩
  have hm : wordBytes 32 0xFFFF00FF = [0xFF#8, 0xFF#8, 0x00#8, 0xFF#8] := by decide
  have hv : wordBytes 32 0x8A010051 = [0x8A#8, 0x01#8, 0x00#8, 0x51#8] := by decide
  simp only [tableRow, hm, hv, encode, frameBytes, List.cons_append, List.nil_append, List.zipWith_cons_cons,
    List.zipWith_nil_left, BitVec.and_zero]
  rfl

theorem toolName (p : List Byte) : Statement (.toolName p) := by
  intro h
  have hp : p.length = 16 := by simpa [Instr.wf] using h
  refine ⟨by simp [encode, frameBytes, tableRow, hp], ?_⟩
  have hm : wordBytes 152 0xFFFF00000000000000000000000000000000FF =
      0xFF#8 :: 0xFF#8 :: (List.replicate p.length 0x00#8 ++ [0xFF#8]) := by rw [hp]; decide
  have hv : wordBytes 152 0x8A020000000000000000000000000000000051 =
      0x8A#8 :: 0x02#8 :: (List.replicate p.length 0x00#8 ++ [0x51#8]) := by rw [hp]; decide
  simp only [tableRow, hm, hv, encode, frameBytes, List.zipWith_cons_cons]
  rw [List.zipWith_append (by simp), zipWith_and_zero]
  rfl

theorem followModeEnable (v : Byte) : Statement (.followModeEnable v) := by
  intro _
  refine ⟨rfl, ?_⟩
  have hm : wordBytes 32 0xFFFF00FF = [0xFF#8, 0xFF#8, 0x00#8, 0xFF#8] := by decide
  have hv : wordBytes 32 0x8A040051 = [0x8A#8, 0x04#8, 0x00#8, 0x51#8] := by decide
  simp only [tableRow, hm, hv, encode, frameBytes, List.cons_append, List.nil_append, List.zipWith_cons_cons,
    List.zipWith_nil_left, BitVec.and_zero]
  rfl

theorem rfidValid (v : Byte) : Statement (.rfidValid v) := by
  intro _
  refine ⟨rfl, ?_⟩
  have hm : wordBytes 32 0xFFFF00FF = [0xFF#8, 0xFF#8, 0x00#8, 0xFF#8] := by decide
  have hv : wordBytes 32 0x8A080051 = [0x8A#8, 0x08#8, 0x00#8, 0x51#8] := by decide
  simp only [tableRow, hm, hv, encode, frameBytes, List.cons_append, List.nil_append, List.zipWith_cons_cons,
    List.zipWith_nil_left, BitVec.and_zero]
  rfl

theorem batteryLevel (v : Byte) : Statement (.batteryLevel v) := by
  intro _
  refine ⟨rfl, ?_⟩
  have hm : wordBytes 32 0xFFFF00FF = [0xFF#8, 0xFF#8, 0x00#8, 0xFF#8] := by decide
  have hv : wordBytes 32 0x8A810051 = [0x8A#8, 0x81#8, 0x00#8, 0x51#8] := by decide
  simp only [tableRow, hm, hv, encode, frameBytes, List.cons_append, List.nil_append, List.zipWith_cons_cons,
    List.zipWith_nil_left, BitVec.and_zero]
  rfl

theorem armStatus (v : Byte) : Statement (.armStatus v) := by
  intro _
  refine ⟨rfl, ?_⟩
  have hm : wordBytes 32 0xFFFF00FF = [0xFF#8, 0xFF#8, 0x00#8, 0xFF#8] := by decide
  have hv : wordBytes 32 0x8A820051 = [0x8A#8, 0x82#8, 0x00#8, 0x51#8] := by decide
  simp only [tableRow, hm, hv, encode, frameBytes, List.cons_append, List.nil_append, List.zipWith_cons_cons,
    List.zipWith_nil_left, BitVec.and_zero]
  rfl

theorem rfidValue (p : List Byte) : Statement (.rfidValue p) := by
  intro h
  have hp : p.length = 4 := by simpa [Instr.wf] using h
  refine ⟨by simp [encode, frameBytes, tableRow, hp], ?_⟩
  have hm : wordBytes 56 0xFFFF00000000FF = 0xFF#8 :: 0xFF#8 :: (List.replicate p.length 0x00#8 ++ [0xFF#8]) := by
    rw [hp]; decide
  have hv : wordBytes 56 0x8A840000000051 = 0x8A#8 :: 0x84#8 :: (List.replicate p.length 0x00#8 ++ [0x51#8]) := by
    rw [hp]; decide
  simp only [tableRow, hm, hv, encode, frameBytes, List.zipWith_cons_cons]
  rw [List.zipWith_append (by simp), zipWith_and_zero]
  rfl

theorem armstateIdle : Statement .armstateIdle := by unfold Statement; decide
theorem armstateReady : Statement .armstateReady := by unfold Statement; decide
theorem armstateClosed : Statement .armstateClosed := by unfold Statement; decide
theorem armstateDisplay : Statement .armstateDisplay := by unfold Statement; decide
theorem boolTrue : Statement .boolTrue := by unfold Statement; decide
theorem boolFalse : Statement .boolFalse := by unfold Statement; decide
theorem start : Statement .start := by unfold Statement; decide
theorem stop : Statement .stop := by unfold Statement; decide

end Sys2Proof.Laws.MatchesTable
end

