-- ==== Sys2Proof/Tests/Slice0.lean ====
section
/-! SUPPORT. Tests with results taken from spec/95_test_vectors.md and the rules' own examples, and the witnesses of the
statements' hypotheses. -/

namespace Sys2Proof.Tests

open Sys2Proof.Machine

/-- The next state, if there is one. -/
def ran : Outcome → Option State
  | .next s => some s
  | .fault _ => none
  | .refused _ => none

/-- The machine after reset with one session in a given state. -/
def at_ (ss : Session) : State := { State.reset with sessions := [some ss] }

/-- The machine after reset with calls to make. -/
def calls (cs : List HostCall) : State := { State.reset with pending := cs }

/-- What one step from a state records and where it leaves session 0. -/
def seen (s : State) : Option (Option Session × List Event × List Return) :=
  (ran (step s)).map fun t => (t.session? 0, t.trace.map Record.event, t.returns)

/-- What one instruction records and where it leaves session 0. -/
def did (i : Instr) (ss : Session) : Option (Option Session × List Event) :=
  (ran (exec i (at_ ss))).map fun t => (t.session? 0, t.trace.map Record.event)

/-- "marteau" and its payload (95_test_vectors.md 1.6). -/
def marteau : List Nat := [0x6D, 0x61, 0x72, 0x74, 0x65, 0x61, 0x75]
def marteauPayload : List Byte :=
  [0x6D, 0x61, 0x72, 0x74, 0x65, 0x61, 0x75, 0x20, 0x20, 0x20, 0x20, 0x20, 0x20, 0x20, 0x20, 0x20]

/-! WellFormed: an ill-formed term for each check. -/

theorem test_wf_refuses_short_tool_name : (Instr.toolName (List.replicate 15 0x41#8)).wf = false := by decide
theorem test_wf_refuses_long_tool_name : (Instr.toolName (List.replicate 17 0x41#8)).wf = false := by decide
theorem test_wf_refuses_short_rfid : (Instr.rfidValue [0xDE#8, 0xAD#8, 0xBE#8]).wf = false := by decide
theorem test_wf_refuses_long_rfid : (Instr.rfidValue [1#8, 2#8, 3#8, 4#8, 5#8]).wf = false := by decide

/-! Decode: a word of every row, written from the table's encoding column. -/

theorem test_decode_toolId : decode [0b10001010#8, 0b00000001#8, 0x05#8, 0b01010001#8] = .instr (.toolId 5) := by decide
theorem test_decode_toolName : decode ([0b10001010#8, 0b00000010#8] ++ marteauPayload ++ [0b01010001#8]) =
    .instr (.toolName marteauPayload) := by decide
theorem test_decode_followModeEnable : decode [0b10001010#8, 0b00000100#8, 0x01#8, 0b01010001#8] =
    .instr (.followModeEnable 1) := by decide
theorem test_decode_rfidValid : decode [0b10001010#8, 0b00001000#8, 0x00#8, 0b01010001#8] = .instr (.rfidValid 0) := by
  decide
theorem test_decode_batteryLevel : decode [0b10001010#8, 0b10000001#8, 0x64#8, 0b01010001#8] =
    .instr (.batteryLevel 100) := by decide
theorem test_decode_armStatus : decode [0b10001010#8, 0b10000010#8, 0x02#8, 0b01010001#8] = .instr (.armStatus 2) := by
  decide
theorem test_decode_rfidValue : decode [0b10001010#8, 0b10000100#8, 0xDE#8, 0xAD#8, 0xBE#8, 0xEF#8, 0b01010001#8] =
    .instr (.rfidValue [0xDE#8, 0xAD#8, 0xBE#8, 0xEF#8]) := by decide
theorem test_decode_armstateIdle : decode [0b00000001#8] = .instr .armstateIdle := by decide
theorem test_decode_armstateReady : decode [0b00000010#8] = .instr .armstateReady := by decide
theorem test_decode_armstateClosed : decode [0b00000100#8] = .instr .armstateClosed := by decide
theorem test_decode_armstateDisplay : decode [0b00001000#8] = .instr .armstateDisplay := by decide
theorem test_boolTrue_word : encode .boolTrue = [0b00000001#8] := by decide
theorem test_decode_boolFalse : decode [0b00000000#8] = .instr .boolFalse := by decide
theorem test_decode_start : decode [0b10001010#8] = .instr .start := by decide
theorem test_decode_stop : decode [0b01010001#8] = .instr .stop := by decide
theorem test_decode_rejects_unlisted_byte : decode [0x99#8] = .rejected (.notATableByte 0x99) := by decide
theorem test_decode_rejects_eighth_code : decode [0x8A#8, 0x88#8, 0x00#8, 0x51#8] =
    .rejected (.error .unknownMessageType) := by decide

/-! LOOKUP, ENCODE and DECODE (95_test_vectors.md 2 to 4). -/

theorem test_lookup_sum_of_codes : lookup 0x83#8 = none := by decide
theorem test_encode_too_long_before_invalid : encodeFrame 0x01#8 (List.replicate 17 0x00#8) = .err .payloadTooLong := by
  decide
theorem test_encode_unknown_first : encodeFrame 0x99#8 (List.replicate 17 0x00#8) = .err .unknownMessageType := by decide
theorem test_encode_empty : encodeFrame 0x01#8 [] = .err .invalidData := by decide
theorem test_encode_no_escaping : encodeFrame 0x84#8 [0x8A#8, 0x51#8, 0x51#8, 0x8A#8] =
    .ok [0x8A#8, 0x84#8, 0x8A#8, 0x51#8, 0x51#8, 0x8A#8, 0x51#8] := by decide
theorem test_decodeFrame_length_before_start : decodeFrame [0x00#8, 0x00#8] = .err .incompleteFrame := by decide
theorem test_decodeFrame_start_before_stop : decodeFrame [0x00#8, 0x01#8, 0x05#8, 0x50#8] = .err .invalidFrameStart := by
  decide
theorem test_decodeFrame_stop_before_type : decodeFrame [0x8A#8, 0x99#8, 0x50#8] = .err .invalidFrameEnd := by decide
theorem test_decodeFrame_unknown : decodeFrame [0x8A#8, 0x99#8, 0x00#8, 0x51#8] = .err .unknownMessageType := by decide
theorem test_decodeFrame_short_payload : decodeFrame [0x8A#8, 0x84#8, 0xDE#8, 0xAD#8, 0xBE#8, 0x51#8] =
    .err .invalidPayloadLength := by decide
theorem test_decodeFrame_no_domain_check : decodeFrame [0x8A#8, 0x82#8, 0x03#8, 0x51#8] =
    .ok (⟨.armStatus, .per, 1, .armState⟩, [0x03#8]) := by decide

/-! The instructions, in Idle and inside an attempt (95_test_vectors.md 5, 6 and 8). -/

theorem test_toolId_dropped : did (.toolId 5) .new = some (some .new, []) := by decide
theorem test_toolName_dropped : did (.toolName (List.replicate 16 0x20#8)) .new = some (some .new, []) := by decide
theorem test_followModeEnable_dropped : did (.followModeEnable 1) .new = some (some .new, []) := by decide
theorem test_rfidValid_dropped : did (.rfidValid 0) .new = some (some .new, []) := by decide
theorem test_batteryLevel_unsigned : did (.batteryLevel 0xFF) .new = some (some .new, [.batteryLevel 255]) := by decide
theorem test_batteryLevel_start_value : did (.batteryLevel 0x8A) .new = some (some .new, [.batteryLevel 138]) := by decide
theorem test_armStatus_ready : did (.armStatus 2) .new = some (some .new, [.armStateChanged .ready]) := by decide
theorem test_armStatus_undefined : did (.armStatus 3) .new =
    some (some .new, [.log (.dispatchFailed .invalidData)]) := by decide
theorem test_rfidValue_leading_zeros : did (.rfidValue [0x00#8, 0x0A#8, 0xA0#8, 0xFF#8]) .new =
    some (some .new, [.rfidReceived ['0', '0', '0', 'a', 'a', '0', 'f', 'f']]) := by decide
theorem test_armstateDisplay_stored : did .armstateDisplay ⟨.readingPayload, 1, [0x8A#8, 0x82#8]⟩ =
    some (some ⟨.readingFooter, 1, [0x8A#8, 0x82#8, 0x08#8]⟩, []) := by decide
theorem test_armstateReady_as_type_code : did .armstateReady ⟨.readingHeader, 1, [0x8A#8]⟩ =
    some (some ⟨.readingPayload, 16, [0x8A#8, 0x02#8]⟩, []) := by decide
theorem test_armstateClosed_noise : did .armstateClosed .new = some (some .new, []) := by decide
theorem test_armstateIdle_stop_position : did .armstateIdle ⟨.readingPayload, 0, [0x8A#8, 0x8A#8]⟩ =
    some (some .new, [.log (.decodeFailed .invalidFrameEnd)]) := by decide
theorem test_boolTrue_stored : did .boolTrue ⟨.readingPayload, 1, [0x8A#8, 0x04#8]⟩ =
    some (some ⟨.readingFooter, 1, [0x8A#8, 0x04#8, 0x01#8]⟩, []) := by decide
theorem test_boolFalse_unknown_type : did .boolFalse ⟨.readingHeader, 1, [0x8A#8]⟩ =
    some (some ⟨.readingPayload, 0, [0x8A#8, 0x00#8]⟩, [.log (.unknownTypeAtHeader 0x00#8)]) := by decide
theorem test_start_opens : did .start .new = some (some ⟨.readingHeader, 1, [0x8A#8]⟩, []) := by decide
theorem test_start_is_wrong_stop : did .start ⟨.readingFooter, 1, [0x8A#8, 0x81#8, 0x64#8]⟩ =
    some (some .new, [.log (.decodeFailed .invalidFrameEnd)]) := by decide
theorem test_stop_is_payload : did .stop ⟨.readingPayload, 1, [0x8A#8, 0x84#8, 1#8, 2#8, 3#8]⟩ =
    some (some ⟨.readingFooter, 1, [0x8A#8, 0x84#8, 1#8, 2#8, 3#8, 0x51#8]⟩, []) := by decide
theorem test_stop_dispatches : did .stop ⟨.readingFooter, 1, [0x8A#8, 0x84#8, 0xDE#8, 0xAD#8, 0xBE#8, 0xEF#8]⟩ =
    some (some .new, [.rfidReceived ['d', 'e', 'a', 'd', 'b', 'e', 'e', 'f']]) := by decide
/-- R232: a fresh frame is consumed as the rest of one cut short, and its last byte is noise. -/
theorem test_frame_inside_attempt : did (.batteryLevel 0x64) ⟨.readingPayload, 2, [0x8A#8, 0x84#8, 0xDE#8, 0xAD#8]⟩ =
    some (some .new, [.log (.decodeFailed .invalidFrameEnd)]) := by decide

/-! One step. -/

/-- Scenario C, its nine bytes as one delivery. -/
theorem test_scenario_c : seen (calls [.deliver 0 [0xFF, 0xFF, 0x8A, 0x84, 0xDE, 0xAD, 0xBE, 0xEF, 0x51]]) =
    some (some .new, [.rfidReceived ['d', 'e', 'a', 'd', 'b', 'e', 'e', 'f']], []) := by decide
/-- Scenario D. -/
theorem test_scenario_d : seen (calls [.deliver 0 [0x8A, 0x99, 0x51]]) =
    some (some .new, [.log (.unknownTypeAtHeader 0x99), .log (.decodeFailed .unknownMessageType)], []) := by decide
/-- Program P6. -/
theorem test_start_in_noise : seen (calls [.deliver 0 [0x00, 0x8A, 0x8A, 0x82, 0x04, 0x51, 0x8A, 0x82, 0x04, 0x51]]) =
    some (some .new, [.log (.unknownTypeAtHeader 0x8A), .log (.decodeFailed .invalidFrameEnd), .armStateChanged .closed],
      []) := by decide
theorem test_fetched_word_runs : seen (State.reset.withFetchWord 32 0x8A816451) =
    some (some .new, [.batteryLevel 100], []) := by decide
theorem test_setToolId_true : seen (calls [.setToolId 5 true]) =
    some (some .new, [.transmit [0x8A, 0x01, 0x05, 0x51] true], [.command (.ok ())]) := by decide
theorem test_setToolId_false : seen (calls [.setToolId 5 false]) =
    some (some .new, [.transmit [0x8A, 0x01, 0x05, 0x51] false], [.command (.err .uartError)]) := by decide
theorem test_setToolId_not_reduced : seen (calls [.setToolId 257 true]) =
    some (some .new, [], [.command (.err .invalidData)]) := by decide
theorem test_setToolId_negative : seen (calls [.setToolId (-1) true]) =
    some (some .new, [], [.command (.err .invalidData)]) := by decide
theorem test_setToolName_marteau : (setToolName true marteau true .reset).trace =
    [⟨.command, .transmit ([0x8A#8, 0x02#8] ++ marteauPayload ++ [0x51#8]) true⟩] := by decide
/-- "ABCDEFGHIJKLMNOP-": the bad character is beyond the sixteenth. -/
theorem test_setToolName_whole_name_checked :
    (setToolName true ((List.range 16).map (0x41 + ·) ++ [0x2D]) true .reset).returns =
      [.command (.err .invalidData)] := by decide
theorem test_setToolName_accent : (setToolName true [0x63, 0x6C, 0xE9] true .reset).returns =
    [.command (.err .invalidData)] := by decide
theorem test_setToolName_empty_accepted : (setToolName true [] true .reset).trace =
    [⟨.command, .transmit ([0x8A#8, 0x02#8] ++ List.replicate 16 0x20#8 ++ [0x51#8]) true⟩] := by decide
theorem test_setToolName_empty_refused : (setToolName false [] true .reset).returns =
    [.command (.err .invalidData)] := by decide
theorem test_pad16_truncates : pad16 ((List.range 20).map (0x41 + ·)) =
    [0x41, 0x42, 0x43, 0x44, 0x45, 0x46, 0x47, 0x48, 0x49, 0x4A, 0x4B, 0x4C, 0x4D, 0x4E, 0x4F, 0x50] := by decide
theorem test_setFollowMode : seen (calls [.setFollowMode true false]) =
    some (some .new, [.transmit [0x8A, 0x04, 0x01, 0x51] false], [.command (.err .uartError)]) := by decide
theorem test_setRfidValidity : seen (calls [.setRfidValidity false true]) =
    some (some .new, [.transmit [0x8A, 0x08, 0x00, 0x51] true], [.command (.ok ())]) := by decide
theorem test_createSession : (ran (step (calls [.createSession]))).map (fun t => (t.sessions, t.returns)) =
    some ([some .new, some .new], [.created 1]) := by decide
theorem test_dropSession : (ran (step { at_ ⟨.readingFooter, 1, [0x8A#8, 0x81#8, 0x64#8]⟩ with
    pending := [.dropSession 0] })).map (fun t => (t.sessions, t.trace)) = some ([none], []) := by decide
theorem test_direct_decode : seen (calls [.decode [0x8A]]) =
    some (some .new, [], [.decode (.err .incompleteFrame)]) := by decide
theorem test_error_ordinals : ErrorName.ordinal .invalidFrameStart = 1 ∧ ErrorName.ordinal .uartError = 8 ∧
    (Result.ok () : Result Unit).status = 0 := by decide
theorem test_pstate_codes : PState.code .idle = 0 ∧ PState.code .readingFooter = 3 := by decide

/-! Witnesses: values that meet the hypotheses of each statement that has some, one for each clause. -/

theorem witness_DecodeOfEncodeGivesInstr : (Instr.toolName marteauPayload).wf = true ∧
    (Instr.rfidValue [0#8, 0xFF#8, 0x8A#8, 0x51#8]).wf = true ∧ Instr.boolTrue.wf = true := by decide
theorem witness_EncodeOfDecodeGivesBytes : decode [0x8A#8, 0x81#8, 0x51#8, 0x51#8] = .instr (.batteryLevel 0x51) := by
  decide
theorem witness_DecoderAgreesWithDECODE : ([0x8A#8, 0x01#8, 0x05#8, 0x51#8] : List Byte).length ≠ 1 ∧
    ([] : List Byte).length ≠ 1 := by decide
theorem witness_EncodeBuildsTheFrame : lookup 0x84#8 = some ⟨.rfidValue, .per, 4, .rawBytes⟩ ∧
    ([0xDE#8, 0xAD#8, 0xBE#8, 0xEF#8] : List Byte).length = 4 := by decide
theorem witness_EncodeFailsByName : lookup 0x99#8 = none ∧ lookup 0x02#8 = some ⟨.toolName, .dev, 16, .text⟩ ∧
    16 < (List.replicate 17 0x41#8 : List Byte).length ∧ (List.replicate 15 0x41#8 : List Byte).length ≤ 16 ∧
    (List.replicate 15 0x41#8 : List Byte).length ≠ 16 := by decide
theorem witness_DecodeOutcomesInOrder :
    ([0x8A#8, 0x51#8] : List Byte).length < 3 ∧
    (3 ≤ ([0x00#8, 0x01#8, 0x51#8] : List Byte).length ∧ ([0x00#8, 0x01#8, 0x51#8] : List Byte)[0]? ≠ some 0x8A#8) ∧
    (([0x8A#8, 0x01#8, 0x50#8] : List Byte)[0]? = some 0x8A#8 ∧
      ([0x8A#8, 0x01#8, 0x50#8] : List Byte).getLast? ≠ some 0x51#8) ∧
    (([0x8A#8, 0x99#8, 0x51#8] : List Byte) = [0x8A#8, 0x99#8] ++ [] ++ [0x51#8] ∧ lookup 0x99#8 = none) ∧
    (lookup 0x01#8 = some ⟨.toolId, .dev, 1, .int 1 6⟩ ∧ ([] : List Byte).length ≠ 1 ∧ ([0x05#8] : List Byte).length = 1) ∧
    decodeFrame [] = .err .incompleteFrame := by decide
theorem witness_CodecRoundTripBothWays : encodeFrame 0x81#8 [0x64#8] = .ok [0x8A#8, 0x81#8, 0x64#8, 0x51#8] ∧
    decodeFrame [0x8A#8, 0x81#8, 0x64#8, 0x51#8] = .ok (⟨.batteryLevel, .per, 1, .int 0 255⟩, [0x64#8]) := by decide
theorem witness_DecodeIsInjective :
    decodeFrame [0x8A#8, 0x04#8, 0x02#8, 0x51#8] = .ok (⟨.followModeEnable, .dev, 1, .bool⟩, [0x02#8]) := by decide
theorem witness_IdleDiscardsNoise : Session.new.wf = true ∧ Session.new.pstate = .idle ∧ (0x51#8 : Byte) ≠ 0x8A#8 := by
  decide
theorem witness_IdleOpensAttemptOnStart : Session.new.wf = true ∧ Session.new.pstate = .idle := by decide
theorem witness_HeaderResolvesKnownType : (Session.mk .readingHeader 1 [0x8A#8]).wf = true ∧
    lookup 0x02#8 = some ⟨.toolName, .dev, 16, .text⟩ := by decide
theorem witness_HeaderLogsUnknownType : (Session.mk .readingHeader 1 [0x8A#8]).wf = true ∧ lookup 0x8A#8 = none := by
  decide
theorem witness_PayloadByteIsCounted :
    ((Session.mk .readingPayload 2 [0x8A#8, 0x84#8, 0xDE#8, 0xAD#8]).wf = true ∧ 2 ≤ 2) ∧
    (Session.mk .readingPayload 1 [0x8A#8, 0x84#8, 0xDE#8, 0xAD#8, 0xBE#8]).wf = true := by decide
theorem witness_UnknownTypeTakesNextByteAsStop : (Session.mk .readingPayload 0 [0x8A#8, 0x99#8]).wf = true := by decide
theorem witness_FooterEndsAttempt : (Session.mk .readingFooter 1 [0x8A#8, 0x81#8, 0x64#8]).wf = true ∧
    [0x8A#8, 0x81#8, 0x64#8] = [0x8A#8, 0x81#8] ++ [0x64#8] ∧
    lookup 0x81#8 = some ⟨.batteryLevel, .per, 1, .int 0 255⟩ := by decide
theorem witness_FeedKeepsSessionWellFormed : (Session.mk .readingPayload 16 [0x8A#8, 0x02#8]).wf = true := by decide
theorem witness_FeedEmitsAtMostOneEvent : (Session.mk .readingFooter 1 [0x8A#8, 0x82#8, 0x03#8]).wf = true := by decide
/-- A wrong stop byte, the end of an unknown type's attempt (with STOP and with another byte), and an undefined Arm State. -/
theorem witness_FeedContainsErrors :
    ((Session.mk .readingFooter 1 [0x8A#8, 0x81#8, 0x64#8]).wf = true ∧
      decodeFrame ([0x8A#8, 0x81#8, 0x64#8] ++ [0x00#8]) = .err .invalidFrameEnd ∧
      .log (.decodeFailed .invalidFrameEnd) ∈ (feed ⟨.readingFooter, 1, [0x8A#8, 0x81#8, 0x64#8]⟩ 0x00#8).2) ∧
    ((Session.mk .readingPayload 0 [0x8A#8, 0x99#8]).wf = true ∧
      decodeFrame ([0x8A#8, 0x99#8] ++ [0x51#8]) = .err .unknownMessageType ∧
      decodeFrame ([0x8A#8, 0x99#8] ++ [0x00#8]) = .err .invalidFrameEnd) ∧
    ((Session.mk .readingFooter 1 [0x8A#8, 0x82#8, 0x03#8]).wf = true ∧
      decodeFrame ([0x8A#8, 0x82#8, 0x03#8] ++ [0x51#8]) = .ok (⟨.armStatus, .per, 1, .armState⟩, [0x03#8]) ∧
      armState 0x03#8 = none ∧
      .log (.dispatchFailed .invalidData) ∈ (feed ⟨.readingFooter, 1, [0x8A#8, 0x82#8, 0x03#8]⟩ 0x51#8).2) := by decide
theorem witness_BufferStaysWithinCapacity :
    (Session.mk .readingFooter 1 ([0x8A#8, 0x02#8] ++ List.replicate 16 0x20#8)).wf = true ∧
    ([0x8A#8, 0x02#8] ++ List.replicate 16 0x20#8 : List Byte) ≠ [] := by decide
theorem witness_BufferIsAppendOnly :
    ((Session.mk .readingPayload 4 [0x8A#8, 0x84#8]).wf = true ∧
      (feed ⟨.readingPayload, 4, [0x8A#8, 0x84#8]⟩ 0xDE#8).1.pstate ≠ .idle) ∧
    ((Session.mk .readingFooter 1 [0x8A#8, 0x81#8, 0x64#8]).wf = true ∧
      (feed ⟨.readingFooter, 1, [0x8A#8, 0x81#8, 0x64#8]⟩ 0x51#8).1.pstate = .idle) ∧
    (Session.new.wf = true ∧ Session.new.pstate = .idle ∧ (0x51#8 : Byte) ≠ 0x8A#8) := by decide
theorem witness_AttemptConsumesFixedByteCount : lookup 0x84#8 = some ⟨.rfidValue, .per, 4, .rawBytes⟩ ∧
    ([] : List Byte).length < 4 + 1 ∧ (List.replicate 4 0x51#8 : List Byte).length < 4 + 1 ∧
    (List.replicate 5 0x51#8 : List Byte).length = 4 + 1 ∧ lookup 0x88#8 = none := by decide
theorem witness_FramesAfterNoiseAreAllDispatched :
    ∀ x ∈ ([([0xFF#8, 0xFF#8], [0x8A#8, 0x84#8, 0xDE#8, 0xAD#8, 0xBE#8, 0xEF#8, 0x51#8]),
        ([], [0x8A#8, 0x81#8, 0x8A#8, 0x51#8])] : List (List Byte × List Byte)),
      (∀ b ∈ x.1, b ≠ 0x8A#8) ∧ validFrame x.2 = true := by decide
theorem witness_DispatchDefaultArmUnreachable : lookup 0x82#8 = some ⟨.armStatus, .per, 1, .armState⟩ := by decide
theorem witness_HexStringDigits : ([0x0A#8, 0xF9#8] : List Byte)[1]? = some 0xF9#8 ∧ (9#4).toNat ≤ 9 ∧
    10 ≤ (10#4).toNat := by decide
theorem witness_EveryInstructionFeedsItsBytes :
    (at_ ⟨.readingPayload, 2, [0x8A#8, 0x84#8, 0xDE#8, 0xAD#8]⟩).Ready 0
      ⟨.readingPayload, 2, [0x8A#8, 0x84#8, 0xDE#8, 0xAD#8]⟩ := ⟨by decide, by decide⟩
theorem witness_DevFramesAreDroppedSilently : State.reset.session? State.reset.link = some Session.new ∧
    marteauPayload.length = 16 := by decide
theorem witness_BatteryLevelInvokesHandler : State.reset.session? State.reset.link = some Session.new := by decide
theorem witness_ArmStatusInvokesHandlerOrFails : State.reset.session? State.reset.link = some Session.new ∧
    armState 0x08#8 = some .display ∧ armState 0x03#8 = none := by decide
theorem witness_ArmStateIsAClosedEnumeration : (0x03#8 : Byte) ∉ [0x01#8, 0x02#8, 0x04#8, 0x08#8] := by decide
theorem witness_LookupAnswersTheSevenEntries :
    (0x88#8 : Byte) ∉ [0x01#8, 0x02#8, 0x04#8, 0x08#8, 0x81#8, 0x82#8, 0x84#8] := by decide
theorem witness_RfidValueInvokesHandler : State.reset.session? State.reset.link = some Session.new ∧
    ([0x8A#8, 0x51#8, 0x51#8, 0x8A#8] : List Byte).length = 4 := by decide
theorem witness_ArmStateBytesInAnArmStatusFrame :
    (Instr.armstateDisplay, 0x08#8, ArmState.display) ∈
      [(Instr.armstateIdle, 0x01#8, ArmState.idle), (Instr.armstateReady, 0x02#8, ArmState.ready),
        (Instr.armstateClosed, 0x04#8, ArmState.closed), (Instr.armstateDisplay, 0x08#8, ArmState.display)] ∧
    (at_ ⟨.readingPayload, 1, [0x8A#8, 0x82#8]⟩).session? 0 = some ⟨.readingPayload, 1, [0x8A#8, 0x82#8]⟩ := by decide
theorem witness_BoolBytesInABooleanFrame :
    (Instr.boolFalse, 0x00#8) ∈ [(Instr.boolTrue, 0x01#8), (Instr.boolFalse, 0x00#8)] ∧
    (0x08#8 : Byte) ∈ [0x04#8, 0x08#8] ∧
    (at_ ⟨.readingPayload, 1, [0x8A#8, 0x08#8]⟩).session? 0 = some ⟨.readingPayload, 1, [0x8A#8, 0x08#8]⟩ := by decide
theorem witness_StartMeansItsPosition :
    State.reset.Ready 0 Session.new ∧
    (at_ ⟨.readingHeader, 1, [0x8A#8]⟩).Ready 0 ⟨.readingHeader, 1, [0x8A#8]⟩ ∧
    (at_ ⟨.readingPayload, 2, [0x8A#8, 0x84#8, 1#8, 2#8]⟩).Ready 0 ⟨.readingPayload, 2, [0x8A#8, 0x84#8, 1#8, 2#8]⟩ ∧
    (at_ ⟨.readingPayload, 1, [0x8A#8, 0x81#8]⟩).Ready 0 ⟨.readingPayload, 1, [0x8A#8, 0x81#8]⟩ ∧
    (at_ ⟨.readingPayload, 0, [0x8A#8, 0x99#8]⟩).Ready 0 ⟨.readingPayload, 0, [0x8A#8, 0x99#8]⟩ ∧
    (at_ ⟨.readingFooter, 1, [0x8A#8, 0x81#8, 1#8]⟩).Ready 0 ⟨.readingFooter, 1, [0x8A#8, 0x81#8, 1#8]⟩ := by
  unfold State.Ready; decide
theorem witness_StopMeansItsPosition :
    State.reset.Ready 0 Session.new ∧
    (at_ ⟨.readingHeader, 1, [0x8A#8]⟩).Ready 0 ⟨.readingHeader, 1, [0x8A#8]⟩ ∧
    (at_ ⟨.readingPayload, 2, [0x8A#8, 0x84#8, 1#8, 2#8]⟩).Ready 0 ⟨.readingPayload, 2, [0x8A#8, 0x84#8, 1#8, 2#8]⟩ ∧
    (at_ ⟨.readingPayload, 1, [0x8A#8, 0x81#8]⟩).Ready 0 ⟨.readingPayload, 1, [0x8A#8, 0x81#8]⟩ ∧
    (at_ ⟨.readingPayload, 0, [0x8A#8, 0x99#8]⟩).Ready 0 ⟨.readingPayload, 0, [0x8A#8, 0x99#8]⟩ ∧
    (at_ ⟨.readingFooter, 1, [0x8A#8, 0x81#8, 1#8]⟩).Ready 0 ⟨.readingFooter, 1, [0x8A#8, 0x81#8, 1#8]⟩ ∧
    [0x8A#8, 0x81#8, 1#8] = [0x8A#8, 0x81#8] ++ [1#8] ∧ lookup 0x81#8 = some ⟨.batteryLevel, .per, 1, .int 0 255⟩ := by
  unfold State.Ready; decide
theorem witness_InstructionLeavesTheRestUnchanged :
    ∃ t, exec .start { State.reset with sessions := [some .new, some ⟨.readingHeader, 1, [0x8A#8]⟩] } = .next t :=
  ⟨_, rfl⟩
theorem witness_InstructionStopsWithoutAWellFormedSession :
    ((at_ ⟨.idle, 1, []⟩).session? 0 = some ⟨.idle, 1, []⟩ ∧ (Session.mk .idle 1 []).wf = false) ∧
    State.session? { State.reset with sessions := [none] } 0 = none := by decide
theorem witness_StepRunsTheDecodedInstruction :
    ((calls [.deliver 0 [0x8A#8]]).pending = .deliver 0 [0x8A#8] :: [] ∧ decode [0x8A#8] = .instr .start) ∧
    decodeTableWord 32 0x8A010551 = some (.toolId 5) := by decide
theorem witness_EveryDeliveryIsFEEDS :
    (calls [.deliver 0 [0xFF#8, 0x8A#8]]).pending = .deliver 0 [0xFF#8, 0x8A#8] :: [] ∧
    (calls [.deliver 0 [0xFF#8, 0x8A#8]]).Ready 0 .new := by unfold State.Ready; decide
theorem witness_ChunkingDoesNotMatter : State.reset.Ready 0 .new := by unfold State.Ready; decide
theorem witness_WaitsUntilTheHostMoves : State.reset.pending = [] := by decide
theorem witness_OverlappingFeedsAreRefused :
    (calls [.overlap 0 [0x8A#8] [0x81#8]]).pending = .overlap 0 [0x8A#8] [0x81#8] :: [] := by decide
/-- A state of the invariant with a partial frame and a trace, whose step answers a next state. -/
def midway : State :=
  { sessions := [some .new, some ⟨.readingFooter, 1, [0x8A#8, 0x81#8, 0x64#8]⟩], link := 0,
    pending := [.deliver 1 [0x51#8]], trace := [⟨.command, .transmit [0x8A#8, 0x01#8, 0x05#8, 0x51#8] true⟩],
    returns := [.command (.ok ())] }
theorem witness_StepKeepsTheInvariant : midway.Inv ∧ ∃ t, step midway = .next t :=
  ⟨by unfold State.Inv; decide, _, rfl⟩
theorem witness_NoErrorStopsTheHardware : midway.sessionsWf = true ∧ midway.callAllowed = true := by decide
theorem witness_SessionsAreIndependent :
    midway.pending = .deliver 1 [0x51#8] :: [] ∧
    midway.session? 1 = State.session? { midway with sessions := [none, midway.session? 1] } 1 ∧
    ∃ t, step midway = .next t := ⟨by decide, by decide, _, rfl⟩
/-- Each of the four commands, and each value of `valid` for the two that have both. -/
theorem witness_CommandsTransmitOnceOrHaveNoEffect :
    (∀ id, (calls [.setToolId id true]).pending = .setToolId id true :: []) ∧
    false = toolIdValid 0 ∧ false = toolIdValid 7 ∧ true = toolIdValid 1 ∧ true = toolIdValid 6 ∧
    (∀ name, (calls [.setToolName name true]).pending = .setToolName name true :: []) ∧
    false = toolNameValid Config.emptyNameOk [0x5F] ∧ true = toolNameValid Config.emptyNameOk [0x61] ∧
    (∀ e, (calls [.setFollowMode e true]).pending = .setFollowMode e true :: []) ∧
    (∀ v, (calls [.setRfidValidity v false]).pending = .setRfidValidity v false :: []) :=
  ⟨fun _ => rfl, by decide, by decide, by decide, by decide, fun _ => rfl,
    by simp [toolNameValid, alnum], by simp [toolNameValid, alnum], fun _ => rfl, fun _ => rfl⟩
theorem witness_CallsDoNotDependOnSessions :
    (calls [.lookup 0x81#8]).pending = .lookup 0x81#8 :: [] ∧ (∀ k bs, HostCall.lookup 0x81#8 ≠ .deliver k bs) ∧
    (∀ k a b, HostCall.lookup 0x81#8 ≠ .overlap k a b) ∧ HostCall.lookup 0x81#8 ≠ .createSession ∧
    (∀ k, HostCall.lookup 0x81#8 ≠ .dropSession k) := ⟨rfl, by simp, by simp, by simp, by simp⟩
theorem witness_SetToolIdValidatesThenTransmits :
    ((calls [.setToolId 1 true]).pending = .setToolId 1 true :: [] ∧ (1 : Int) = (1 : Nat) ∧ 1 ≤ 1 ∧ 1 ≤ 6) ∧
    ((calls [.setToolId 6 true]).pending = .setToolId 6 true :: [] ∧ (6 : Int) = (6 : Nat) ∧ 1 ≤ 6 ∧ 6 ≤ 6) ∧
    ((calls [.setToolId 0 true]).pending = .setToolId 0 true :: [] ∧ (0 : Int) ≤ 0) ∧
    ((calls [.setToolId 7 true]).pending = .setToolId 7 true :: [] ∧ (7 : Int) ≤ 7) := by decide
/-- The hypotheses on the empty name are met for the value EMPTY_NAME_OK has, whichever it is. -/
theorem witness_SetToolNameValidatesThenTransmits :
    ((calls [.setToolName marteau true]).pending = .setToolName marteau true :: [] ∧ marteau ≠ [] ∧
      ∀ ch ∈ marteau, (0x30 ≤ ch ∧ ch ≤ 0x39) ∨ (0x41 ≤ ch ∧ ch ≤ 0x5A) ∨ (0x61 ≤ ch ∧ ch ≤ 0x7A)) ∧
    (∃ ch ∈ [0x30, 0x3A], ¬ ((0x30 ≤ ch ∧ ch ≤ 0x39) ∨ (0x41 ≤ ch ∧ ch ≤ 0x5A) ∨ (0x61 ≤ ch ∧ ch ≤ 0x7A))) ∧
    (Config.emptyNameOk = true ∨ Config.emptyNameOk = false) :=
  ⟨by decide, by decide, by cases Config.emptyNameOk <;> simp⟩
theorem witness_Pad16PadsOrTruncates : marteau.all alnum = true ∧ ([] : List Nat).all alnum = true ∧
    ((List.range 20).map (0x41 + ·)).all alnum = true ∧ 15 < 16 := by decide
theorem witness_BooleanCommandsTransmit :
    (calls [.setFollowMode true false]).pending = .setFollowMode true false :: [] ∧
    (calls [.setRfidValidity true false]).pending = .setRfidValidity true false :: [] := by decide
theorem witness_EchoOfATransmittedFrameIsDropped :
    State.Inv { midway with pending := [.deliver 0 [0x8A#8, 0x01#8, 0x05#8, 0x51#8]] } ∧
    ⟨.command, .transmit [0x8A#8, 0x01#8, 0x05#8, 0x51#8] true⟩ ∈ midway.trace ∧ midway.session? 0 = some .new := by
  unfold State.Inv; decide
theorem witness_SessionsAreCreatedAndDropped :
    (calls [.createSession]).pending = .createSession :: [] ∧ (calls [.dropSession 0]).pending = .dropSession 0 :: [] ∧
    (calls [.dropSession 0]).session? 0 = some .new := by decide
theorem witness_DirectCallsArePure :
    (calls [.lookup 0x99#8]).pending = .lookup 0x99#8 :: [] ∧
    (calls [.encode 0x01#8 []]).pending = .encode 0x01#8 [] :: [] ∧
    (calls [.decode []]).pending = .decode [] :: [] := by decide

end Sys2Proof.Tests
end

section
/-! PROOFS. FEED, branch by branch (42_stream_parser.md): the equations of the branches of FEED, and the statements on
Idle, ReadingHeader and ReadingPayload. -/

namespace Sys2Proof.Machine

variable {ss : Session} {b : Byte}

/-! The branch FEED takes is that of `pstate` (R141). -/

theorem feed_of_idle (hs : ss.pstate = .idle) : feed ss b = feedIdle ss b := by
  simp only [feed, hs]

theorem feed_of_readingHeader (hs : ss.pstate = .readingHeader) : feed ss b = feedHeader ss b := by
  simp only [feed, hs]

theorem feed_of_readingPayload (hs : ss.pstate = .readingPayload) : feed ss b = feedPayload ss b := by
  simp only [feed, hs]

/-! One equation per arm of a branch. -/

theorem feedIdle_noise (hb : b ≠ Config.START) : feedIdle ss b = (ss, []) :=
  if_neg hb

theorem feedIdle_start : feedIdle ss Config.START = (⟨.readingHeader, 1, [Config.START]⟩, []) :=
  if_pos rfl

theorem feedHeader_known {T : Descriptor} (hl : lookup b = some T) :
    feedHeader ss b = (⟨.readingPayload, T.length, ss.buf ++ [b]⟩, []) := by
  simp only [feedHeader, hl, Session.append_buf]

theorem feedPayload_more (hr : 2 ≤ ss.remaining) :
    feedPayload ss b = (⟨ss.pstate, ss.remaining - 1, ss.buf ++ [b]⟩, []) := by
  have h0 : ss.remaining ≠ 0 := by omega
  have h1 : ss.remaining ≠ 1 := by omega
  simp only [feedPayload, h0, h1, if_false, Session.append_pstate, Session.append_buf]

theorem feedPayload_last (hr : ss.remaining = 1) :
    feedPayload ss b = (⟨.readingFooter, 1, ss.buf ++ [b]⟩, []) := by
  simp only [feedPayload, hr, Nat.one_ne_zero, if_false, if_true, Session.append_buf]

/-- In ReadingHeader the buffer of a well-formed session holds START alone (R34). -/
theorem Session.buf_of_readingHeader (h : ss.wf = true) (hs : ss.pstate = .readingHeader) :
    ss.buf = [Config.START] := by
  rcases Session.wf_cases h with rfl | rfl | ⟨c, T, p, -, -, rfl⟩ | ⟨c, -, rfl⟩ | ⟨c, T, p, -, -, rfl⟩
  case inr.inl => rfl
  all_goals cases hs

/-- Settles O11: the Idle branch leaves the session as it is on a byte that is not START. -/
theorem idleDiscardsNoise : Obligations.IdleDiscardsNoise := by
  intro ss b _ hs hb
  rw [feed_of_idle hs, feedIdle_noise hb]

/-- Settles O12: the Idle branch on START writes all three registers. -/
theorem idleOpensAttemptOnStart : Obligations.IdleOpensAttemptOnStart := by
  intro ss _ hs
  exact (feed_of_idle hs).trans feedIdle_start

/-- Settles O13: by R34 the buffer held START alone, so the append leaves START and the type code. -/
theorem headerResolvesKnownType : Obligations.HeaderResolvesKnownType := by
  intro ss b T h hs hl
  rw [feed_of_readingHeader hs, feedHeader_known hl, Session.buf_of_readingHeader h hs]
  rfl

/-- Settles O15: the two arms of the ReadingPayload branch that append and count. -/
theorem payloadByteIsCounted : Obligations.PayloadByteIsCounted := by
  intro ss b _ hs
  rw [feed_of_readingPayload hs]
  exact ⟨fun hr => by rw [feedPayload_more hr, hs], feedPayload_last⟩

end Sys2Proof.Machine
end

section
/-! PROOFS. A whole frame received in Idle (42_stream_parser.md, 43_dispatcher.md): FEEDS of it runs once through the
four branches of FEED and emits what DISPATCH does, and the session is new again. The statements on single frame rows
are instances. -/

namespace Sys2Proof.Machine

variable {s : State} {i : Instr} {c : Byte} {T : Descriptor} {p : List Byte}

theorem feed_of_readingFooter {ss : Session} {b : Byte} (hs : ss.pstate = .readingFooter) :
    feed ss b = feedFooter ss b := by
  simp only [feed, hs]

/-- FINISH of a valid frame in the buffer. -/
theorem finish_frame {ss : Session} (hb : ss.buf = frameBytes c p) (hl : lookup c = some T) (hp : p.length = T.length) :
    finish ss = (Session.new, dispatch T p) := by
  have hd : decodeFrame (frameBytes c p) = .ok (T, p) := (decodeFrame_ok_iff _ _ _).2 ⟨c, rfl, hl, hp⟩
  simp only [finish, hb, hd, Session.endAttempt_eq_new]

/-- The payload bytes: all but the last are counted, the last moves to ReadingFooter, and none is looked at (R125, R126). -/
theorem feeds_payload (buf p : List Byte) (hne : p ≠ []) :
    feeds ⟨.readingPayload, p.length, buf⟩ p = (⟨.readingFooter, 1, buf ++ p⟩, []) := by
  induction p generalizing buf with
  | nil => exact absurd rfl hne
  | cons b rest ih =>
    rw [feeds_cons, feed_of_readingPayload rfl]
    cases rest with
    | nil => rw [feedPayload_last rfl]; rfl
    | cons b' rest' =>
      rw [feedPayload_more (by simp)]
      simp only [List.length_cons, Nat.add_sub_cancel] at ih ⊢
      simp [ih]

/-- A valid frame from Idle: the events are those of DISPATCH and the session ends as at creation. -/
theorem feeds_frame (hl : lookup c = some T) (hp : p.length = T.length) :
    feeds Session.new (frameBytes c p) = (Session.new, dispatch T p) := by
  have hne : p ≠ [] := List.ne_nil_of_length_pos (by have := (lookup_length hl).1; omega)
  have hstart : feed Session.new Config.START = (⟨.readingHeader, 1, [Config.START]⟩, []) :=
    (feed_of_idle rfl).trans feedIdle_start
  have hcode : feed ⟨.readingHeader, 1, [Config.START]⟩ c = (⟨.readingPayload, p.length, [Config.START, c]⟩, []) := by
    rw [feed_of_readingHeader rfl, feedHeader_known hl, hp]; rfl
  have hstop : feed ⟨.readingFooter, 1, [Config.START, c] ++ p⟩ Config.STOP = (Session.new, dispatch T p) := by
    rw [feed_of_readingFooter rfl]; exact finish_frame rfl hl hp
  simp only [frameBytes, feeds_cons, hstart, hcode, feeds_append, feeds_payload _ _ hne, feeds_nil, hstop,
    List.nil_append, List.append_nil]

/-- A frame row received in Idle: DISPATCH's events go into the trace, and nothing else changes. -/
theorem exec_frame_of_new (h : s.session? s.link = some Session.new) (he : encode i = frameBytes c p)
    (hl : lookup c = some T) (hp : p.length = T.length) :
    exec i s = .next (s.emit (.link s.link) (dispatch T p)) := by
  rw [exec_eq_receive, he, receive_of_ready ⟨h, Session.wf_new⟩, feeds_frame hl hp, State.setSession_same h]

/-- A frame row of a `dev` type received in Idle changes nothing (R151). -/
theorem exec_dev_frame_of_new (h : s.session? s.link = some Session.new) (he : encode i = frameBytes c p)
    (hl : lookup c = some T) (hp : p.length = T.length) (hdev : T.dir = .dev) : exec i s = .next s := by
  rw [exec_frame_of_new h he hl hp, dispatch_dev hdev, State.emit_nil]

/-- Settles O28: each of the four rows is a frame whose registry entry is `dev`, and DISPATCH of a `dev` type emits
nothing. -/
theorem devFramesAreDroppedSilently : Obligations.DevFramesAreDroppedSilently := by
  intro s v p h hp
  exact ⟨exec_dev_frame_of_new (c := 0x01#8) (p := [v]) h rfl rfl rfl rfl,
    exec_dev_frame_of_new (c := 0x02#8) h rfl rfl hp rfl,
    exec_dev_frame_of_new (c := 0x04#8) (p := [v]) h rfl rfl rfl rfl,
    exec_dev_frame_of_new (c := 0x08#8) (p := [v]) h rfl rfl rfl rfl⟩

/-- Settles O29: DISPATCH of a BatteryLevel payload hands on its one byte as an unsigned number. -/
theorem batteryLevelInvokesHandler : Obligations.BatteryLevelInvokesHandler := by
  intro s v h
  exact exec_frame_of_new (c := 0x81#8) (p := [v]) h rfl rfl rfl

end Sys2Proof.Machine
end

section
/-! PROOFS. The commands (44_command_api.md sections 5 to 7): each of the four is SEND of a `dev` type behind a
validation of its argument, and one step of the machine is exactly that command. -/

namespace Sys2Proof.Machine

variable {s : State} {c : HostCall} {rest : List HostCall} {code : Byte} {T : Descriptor} {p : List Byte}

/-- A step with a call on the tape makes that call, with it taken off. -/
theorem step_of_pending (h : s.pending = c :: rest) : step s = performCall c { s with pending := rest } := by
  simp only [step, nextCall, h]

/-- A whole frame of a `dev` type. -/
theorem devFrame_frameBytes (hl : lookup code = some T) (hp : p.length = T.length) (hdev : T.dir = .dev) :
    devFrame (frameBytes code p) = true := by
  have hd : decodeFrame (frameBytes code p) = .ok (T, p) := (decodeFrame_ok_iff _ _ _).2 ⟨code, rfl, hl, hp⟩
  simp only [devFrame, hd, hdev, beq_self_eq_true]

/-- The shape the four commands share: SEND where the argument is valid, and otherwise InvalidData and nothing else. -/
def sendIfValid (valid : Bool) (code : Byte) (p : List Byte) (answer : Bool) (s : State) : State :=
  if valid then send code p answer s else s.give (.command (.err .invalidData))

/-- An invalid argument never reaches SEND. -/
theorem sendIfValid_false (code : Byte) (p : List Byte) (answer : Bool) (s : State) :
    sendIfValid false code p answer s = s.give (.command (.err .invalidData)) := rfl

/-- With a valid argument and a payload of the registry length, the frame is transmitted whatever the answer. -/
theorem sendIfValid_true (hl : lookup code = some T) (hp : p.length = T.length) (answer : Bool) (s : State) :
    sendIfValid true code p answer s =
      (s.emit .command [.transmit (frameBytes code p) answer]).give
        (.command (if answer then .ok () else .err .uartError)) :=
  send_of_length hl hp answer s

/-- Each of the four commands is `sendIfValid` of a `dev` type, with a payload of that type's length. -/
theorem performCall_command {valid answer : Bool}
    (hc : (∃ id, c = .setToolId id answer ∧ valid = toolIdValid id) ∨
      (∃ name, c = .setToolName name answer ∧ valid = toolNameValid Config.emptyNameOk name) ∨
      (∃ e, c = .setFollowMode e answer ∧ valid = true) ∨ (∃ v, c = .setRfidValidity v answer ∧ valid = true)) :
    ∃ code T p, lookup code = some T ∧ p.length = T.length ∧ T.dir = .dev ∧
      ∀ s, performCall c s = .next (sendIfValid valid code p answer s) := by
  rcases hc with ⟨id, rfl, rfl⟩ | ⟨name, rfl, rfl⟩ | ⟨e, rfl, rfl⟩ | ⟨v, rfl, rfl⟩
  · exact ⟨TypeName.toolId.code, _, intPayload id, rfl, rfl, rfl, fun _ => rfl⟩
  · exact ⟨TypeName.toolName.code, _, pad16 name, rfl, pad16_length name, rfl, fun _ => rfl⟩
  · exact ⟨TypeName.followModeEnable.code, _, [boolByte e], rfl, rfl, rfl, fun _ => rfl⟩
  · exact ⟨TypeName.rfidValid.code, _, [boolByte v], rfl, rfl, rfl, fun _ => rfl⟩

/-- Settles O51: the step is `sendIfValid`, and its two cases are the two outcomes. -/
theorem commandsTransmitOnceOrHaveNoEffect : Obligations.CommandsTransmitOnceOrHaveNoEffect := by
  intro s c valid answer rest h hc
  obtain ⟨code, T, p, hl, hp, hdev, hcall⟩ := performCall_command hc
  refine ⟨_, (step_of_pending h).trans (hcall _), ?_⟩
  cases valid with
  | false => simp [sendIfValid_false]
  | true =>
    rw [sendIfValid_true hl hp]
    exact ⟨rfl, rfl, rfl, nofun, fun _ => ⟨frameBytes code p, devFrame_frameBytes hl hp hdev, rfl, rfl⟩⟩

/-- The step of a call that is SEND with a payload of the registry length. -/
theorem step_of_send {answer : Bool} (hl : lookup code = some T) (hp : p.length = T.length)
    (hc : ∀ s, performCall c s = .next (send code p answer s)) (h : s.pending = c :: rest) :
    step s = .next ((State.emit { s with pending := rest } .command [.transmit (frameBytes code p) answer]).give
      (.command (if answer then .ok () else .err .uartError))) := by
  rw [step_of_pending h, hc, send_of_length hl hp]

/-- Settles O56: a Boolean payload has the length of its type for both values, so SEND always transmits. -/
theorem booleanCommandsTransmit : Obligations.BooleanCommandsTransmit := by
  intro s v answer rest
  exact ⟨step_of_send (code := TypeName.followModeEnable.code) (p := [boolByte v]) rfl rfl fun _ => rfl,
    step_of_send (code := TypeName.rfidValid.code) (p := [boolByte v]) rfl rfl fun _ => rfl⟩

end Sys2Proof.Machine
end

section
/-! PROOFS. The table decoder and the codec (30_encoding.md, 41_codec.md): the four shapes of a byte sequence, what the
decoder and DECODE answer on each, and the statements on encoding and decoding. -/

namespace Sys2Proof.Machine

variable {c : Byte} {T : Descriptor} {p f : List Byte} {i : Instr}

/-- The four shapes the first checks of DECODE tell apart (R107 to R109). -/
theorem bytes_cases (f : List Byte) :
    f.length < 3 ∨ (3 ≤ f.length ∧ f[0]? ≠ some Config.START) ∨
    (3 ≤ f.length ∧ f[0]? = some Config.START ∧ f.getLast? ≠ some Config.STOP) ∨ ∃ c p, f = frameBytes c p := by
  by_cases hn : f.length < 3
  · exact .inl hn
  by_cases h0 : f[0]? = some Config.START
  · by_cases hz : f.getLast? = some Config.STOP
    · match f, hn, h0, hz with
      | s :: c :: x :: rest, _, h0, hz =>
        obtain ⟨q, hq⟩ := List.getLast?_eq_some_iff.1 (show (x :: rest).getLast? = some Config.STOP by simpa using hz)
        exact .inr (.inr (.inr ⟨c, q, by rw [frameBytes, ← hq, Option.some.inj h0]⟩))
    · exact .inr (.inr (.inl ⟨by omega, h0, hz⟩))
  · exact .inr (.inl ⟨by omega, h0⟩)

/-! What DECODE answers on each shape. -/

theorem decodeFrame_short (hn : f.length < 3) : decodeFrame f = .err .incompleteFrame :=
  if_pos hn

theorem decodeFrame_bad_start (hn : 3 ≤ f.length) (h0 : f[0]? ≠ some Config.START) :
    decodeFrame f = .err .invalidFrameStart :=
  (if_neg (Nat.not_lt.2 hn)).trans (if_pos h0)

theorem decodeFrame_bad_stop (hn : 3 ≤ f.length) (h0 : f[0]? = some Config.START) (hz : f.getLast? ≠ some Config.STOP) :
    decodeFrame f = .err .invalidFrameEnd := by
  rw [List.getLast?_eq_getElem?] at hz
  exact (if_neg (Nat.not_lt.2 hn)).trans ((if_neg (not_not.2 h0)).trans (if_pos hz))

/-- The first three checks pass on START, a code, any bytes and STOP; of an unknown code the fourth fails (R110). -/
theorem decodeFrame_frame_unknown (hl : lookup c = none) (p : List Byte) :
    decodeFrame (frameBytes c p) = .err .unknownMessageType := by
  simp [decodeFrame, frameBytes, hl]

/-- Of a known code the payload length is checked last (R111). -/
theorem decodeFrame_frame_bad_length (hl : lookup c = some T) (hp : p.length ≠ T.length) :
    decodeFrame (frameBytes c p) = .err .invalidPayloadLength := by
  simp [decodeFrame, frameBytes, hl, hp]

theorem decodeFrame_frame (hl : lookup c = some T) (hp : p.length = T.length) :
    decodeFrame (frameBytes c p) = .ok (T, p) :=
  (decodeFrame_ok_iff _ _ _).2 ⟨c, rfl, hl, hp⟩

/-! What the table decoder answers on each shape. -/

theorem decode_short (h1 : f.length ≠ 1) (hn : f.length < 3) : decode f = .rejected (.error .incompleteFrame) := by
  match f, h1, hn with
  | [], _, _ => rfl
  | [_, _], _, _ => rfl

theorem decode_bad_start (hn : 3 ≤ f.length) (h0 : f[0]? ≠ some Config.START) :
    decode f = .rejected (.error .invalidFrameStart) := by
  match f, hn, h0 with
  | s :: c :: x :: rest, _, h0 => exact if_pos fun hs => h0 (congrArg some hs)

theorem decode_bad_stop (hn : 3 ≤ f.length) (h0 : f[0]? = some Config.START) (hz : f.getLast? ≠ some Config.STOP) :
    decode f = .rejected (.error .invalidFrameEnd) := by
  match f, hn, h0, hz with
  | s :: c :: x :: rest, _, h0, hz =>
    exact (if_neg (not_not.2 (Option.some.inj h0))).trans (if_pos (by simpa using hz))

/-- What stands between a type code and STOP is the body the rows of the table are matched on. -/
theorem decode_frameBytes (c : Byte) (p : List Byte) : decode (frameBytes c p) = decodeBody c p := by
  have hz : (p ++ [Config.STOP]).getLast? = some Config.STOP := List.getLast?_concat
  have hd : (p ++ [Config.STOP]).dropLast = p := List.dropLast_concat
  rw [frameBytes]
  cases hq : p ++ [Config.STOP] with
  | nil => simp at hq
  | cons x rest =>
    rw [hq] at hz hd
    simp only [decode, hz, hd, ne_eq, not_true_eq_false, if_false]

/-! From an instruction to its bytes and back. -/

/-- Settles O1: a frame row's bytes are matched as a body, a one-byte row is its own word. -/
theorem decodeOfEncodeGivesInstr : Obligations.DecodeOfEncodeGivesInstr := by
  intro i h
  cases i with
  | toolName p | rfidValue p =>
    have hp := beq_iff_eq.1 h
    rw [encode, decode_frameBytes]
    simpa [decodeBody, decodeMany] using hp
  | toolId v | followModeEnable v | rfidValid v | batteryLevel v | armStatus v =>
    rw [encode, decode_frameBytes]; rfl
  | armstateIdle | armstateReady | armstateClosed | armstateDisplay | boolTrue | boolFalse | start | stop => rfl

/-- A one-byte row decoded is that byte. -/
theorem encode_of_decodeByte {b : Byte} (h : decodeByte b = .instr i) : i.wf = true ∧ encode i = [b] := by
  unfold decodeByte at h
  split_ifs at h <;> cases h <;> subst b <;> exact ⟨rfl, rfl⟩

/-- A frame row with one payload byte, decoded. -/
theorem encode_of_decodeOne {mk : Byte → Instr} (hm : ∀ v, (mk v).wf = true ∧ encode (mk v) = frameBytes c [v])
    (h : decodeOne mk p = .instr i) : i.wf = true ∧ encode i = frameBytes c p := by
  match p, h with
  | [v], h => exact Decoded.instr.inj h ▸ hm v

/-- A frame row with `n` payload bytes, decoded. -/
theorem encode_of_decodeMany {n : Nat} {mk : List Byte → Instr}
    (hm : ∀ q, q.length = n → (mk q).wf = true ∧ encode (mk q) = frameBytes c q)
    (h : decodeMany n mk p = .instr i) : i.wf = true ∧ encode i = frameBytes c p := by
  unfold decodeMany at h
  split_ifs at h with hp
  exact Decoded.instr.inj h ▸ hm p hp

/-- A frame row decoded is the frame of its code and body. -/
theorem encode_of_decodeBody (h : decodeBody c p = .instr i) : i.wf = true ∧ encode i = frameBytes c p := by
  unfold decodeBody at h
  split_ifs at h <;> subst c
  · exact encode_of_decodeOne (fun _ => ⟨rfl, rfl⟩) h
  · exact encode_of_decodeMany (fun _ hq => ⟨beq_iff_eq.2 hq, rfl⟩) h
  · exact encode_of_decodeOne (fun _ => ⟨rfl, rfl⟩) h
  · exact encode_of_decodeOne (fun _ => ⟨rfl, rfl⟩) h
  · exact encode_of_decodeOne (fun _ => ⟨rfl, rfl⟩) h
  · exact encode_of_decodeOne (fun _ => ⟨rfl, rfl⟩) h
  · exact encode_of_decodeMany (fun _ hq => ⟨beq_iff_eq.2 hq, rfl⟩) h

/-- Settles O2: only a single byte and a whole frame decode, and each row's encoding is what its match compared. -/
theorem encodeOfDecodeGivesBytes : Obligations.EncodeOfDecodeGivesBytes := by
  intro f i h
  by_cases h1 : f.length = 1
  · obtain ⟨b, rfl⟩ := List.length_eq_one_iff.1 h1
    exact encode_of_decodeByte h
  rcases bytes_cases f with hn | ⟨hn, h0⟩ | ⟨hn, h0, hz⟩ | ⟨c, p, rfl⟩
  · rw [decode_short h1 hn] at h; cases h
  · rw [decode_bad_start hn h0] at h; cases h
  · rw [decode_bad_stop hn h0 hz] at h; cases h
  · rw [decode_frameBytes] at h
    exact encode_of_decodeBody h

/-- Settles O3: one closed evaluation of the decoder for each row. -/
theorem writtenTableWordsDecode : Obligations.WrittenTableWordsDecode := by
  refine ⟨?_, ?_, ?_, ?_, ?_, ?_, ?_, ?_, ?_, ?_, ?_, ?_, ?_, ?_⟩ <;> decide

/-! The two decoders agree. -/

/-- On a sequence that is not a single byte both decoders reject by one name or both accept. -/
theorem decode_agrees_decodeFrame (h1 : f.length ≠ 1) :
    (∃ e, decode f = .rejected (.error e) ∧ decodeFrame f = .err e) ∨
    (∃ i T p, decode f = .instr i ∧ decodeFrame f = .ok (T, p)) := by
  rcases bytes_cases f with hn | ⟨hn, h0⟩ | ⟨hn, h0, hz⟩ | ⟨c, p, rfl⟩
  · exact .inl ⟨_, decode_short h1 hn, decodeFrame_short hn⟩
  · exact .inl ⟨_, decode_bad_start hn h0, decodeFrame_bad_start hn h0⟩
  · exact .inl ⟨_, decode_bad_stop hn h0 hz, decodeFrame_bad_stop hn h0 hz⟩
  · rw [decode_frameBytes]
    obtain ⟨hnone, hsome⟩ := decodeBody_spec c p
    cases hl : lookup c with
    | none => exact .inl ⟨_, hnone hl, decodeFrame_frame_unknown hl p⟩
    | some T =>
      obtain ⟨hne, heq⟩ := hsome T hl
      by_cases hp : p.length = T.length
      · obtain ⟨i, hi⟩ := heq hp
        exact .inr ⟨i, T, p, hi, decodeFrame_frame hl hp⟩
      · exact .inl ⟨_, hne hp, decodeFrame_frame_bad_length hl hp⟩

/-- ValidFrame is what DECODE accepts (R77). -/
theorem validFrame_iff (f : List Byte) : validFrame f = true ↔ ∃ T p, decodeFrame f = .ok (T, p) := by
  rcases bytes_cases f with hn | ⟨hn, h0⟩ | ⟨hn, h0, hz⟩ | ⟨c, p, rfl⟩
  · simp [validFrame, decodeFrame_short hn, hn]
  · simp [validFrame, decodeFrame_bad_start hn h0, h0]
  · rw [decodeFrame_bad_stop hn h0 hz, validFrame, ← List.getLast?_eq_getElem?]
    simp [hz]
  · cases hl : lookup c with
    | none => rw [decodeFrame_frame_unknown hl]; simp [validFrame, frameBytes, hl]
    | some T =>
      by_cases hp : p.length = T.length
      · rw [decodeFrame_frame hl hp]; simp [validFrame, frameBytes, hl, hp]
      · rw [decodeFrame_frame_bad_length hl hp]; simp [validFrame, frameBytes, hl, hp]

/-- Settles O4: both decoders answer by the shape of the sequence, and ValidFrame is DECODE's success. -/
theorem decoderAgreesWithDECODE : Obligations.DecoderAgreesWithDECODE := by
  intro f h1
  rw [validFrame_iff]
  rcases decode_agrees_decodeFrame h1 with ⟨e, hd, hf⟩ | ⟨i, T, p, hd, hf⟩ <;> simp [hd, hf]

/-! LOOKUP, ENCODE and DECODE. -/

/-- Settles O5: a code LOOKUP answers is one of the seven. -/
theorem lookupAnswersTheSevenEntries : Obligations.LookupAnswersTheSevenEntries := by
  refine ⟨rfl, rfl, rfl, rfl, rfl, rfl, rfl, fun c hc => ?_⟩
  cases hl : lookup c with
  | none => rfl
  | some T =>
    rcases lookup_cases hl with ⟨rfl, -⟩ | ⟨rfl, -⟩ | ⟨rfl, -⟩ | ⟨rfl, -⟩ | ⟨rfl, -⟩ | ⟨rfl, -⟩ | ⟨rfl, -⟩ <;>
      simp at hc

/-- Settles O6: `encodeFrame_ok_iff` read from right to left. -/
theorem encodeBuildsTheFrame : Obligations.EncodeBuildsTheFrame := by
  intro c T p hl hp
  exact ⟨(encodeFrame_ok_iff c p _).2 ⟨T, hl, hp, rfl⟩, by simp⟩

/-- Settles O7: the three checks of ENCODE in their order. -/
theorem encodeFailsByName : Obligations.EncodeFailsByName := by
  intro c p
  refine ⟨fun hl => ?_, fun T hl hp => ?_, fun T hl hp hne => ?_⟩
  · simp only [encodeFrame, hl]
  · simp only [encodeFrame, hl]
    exact if_pos hp
  · simp only [encodeFrame, hl]
    exact (if_neg (Nat.not_lt.2 hp)).trans (if_pos hne)

/-- Settles O8: one lemma for each outcome; the four shapes are all there are, so no other error is left. -/
theorem decodeOutcomesInOrder : Obligations.DecodeOutcomesInOrder := by
  intro f
  refine ⟨decodeFrame_short, decodeFrame_bad_start, decodeFrame_bad_stop, ?_, fun e he => ?_⟩
  · rintro c p rfl
    exact ⟨fun hl => decodeFrame_frame_unknown hl p, fun T => decodeFrame_frame_bad_length, fun T => decodeFrame_frame⟩
  · rcases bytes_cases f with hn | ⟨hn, h0⟩ | ⟨hn, h0, hz⟩ | ⟨c, p, rfl⟩
    · rw [decodeFrame_short hn] at he; cases he; simp
    · rw [decodeFrame_bad_start hn h0] at he; cases he; simp
    · rw [decodeFrame_bad_stop hn h0 hz] at he; cases he; simp
    · cases hl : lookup c with
      | none => rw [decodeFrame_frame_unknown hl] at he; cases he; simp
      | some T =>
        by_cases hp : p.length = T.length
        · rw [decodeFrame_frame hl hp] at he; cases he
        · rw [decodeFrame_frame_bad_length hl hp] at he; cases he; simp

/-- Settles O9: ENCODE and DECODE succeed on the same code, payload and frame. -/
theorem codecRoundTripBothWays : Obligations.CodecRoundTripBothWays := by
  constructor
  · intro c p f h
    obtain ⟨T, hl, hp, rfl⟩ := (encodeFrame_ok_iff c p f).1 h
    exact ⟨T, hl, decodeFrame_frame hl hp⟩
  · intro f T p h
    obtain ⟨c, rfl, hl, hp⟩ := (decodeFrame_ok_iff f T p).1 h
    exact (encodeFrame_ok_iff _ _ _).2 ⟨T, by rw [lookup_code hl, hl], hp, by rw [lookup_code hl]⟩

/-- Settles O10: by R115 both frames are the one ENCODE makes of the type and the payload. -/
theorem decodeIsInjective : Obligations.DecodeIsInjective := by
  intro f g T p hf hg
  have hfe := codecRoundTripBothWays.2 f T p hf
  have hge := codecRoundTripBothWays.2 g T p hg
  exact Result.ok.inj (hfe.symm.trans hge)

end Sys2Proof.Machine
end

section
/-! PROOFS. DISPATCH and the payload conversions (43_dispatcher.md): what DISPATCH emits, one legal event at most, and
the digits of hexadecimal strings. -/

namespace Sys2Proof.Machine

variable {c v : Byte} {T : Descriptor} {p : List Byte}

theorem dispatchArmStatus_of_some {a : ArmState} (ha : armState v = some a) :
    dispatchArmStatus [v] = [.armStateChanged a] := by
  simp only [dispatchArmStatus, ha]

theorem dispatchArmStatus_of_none (ha : armState v = none) :
    dispatchArmStatus [v] = [.log (.dispatchFailed .invalidData)] := by
  simp only [dispatchArmStatus, ha]

/-- A session never transmits (R142). -/
theorem Event.ne_transmit_of_fromSession {e : Event} (h : e.fromSession = true) (f : List Byte) (t : Bool) :
    e ≠ .transmit f t := by
  rintro rfl; cases h

/-- DISPATCH on a payload of the registry length emits one legal event at most. -/
theorem dispatch_fromSession (hl : lookup c = some T) (hp : p.length = T.length) :
    dispatch T p = [] ∨ ∃ e, dispatch T p = [e] ∧ e.fromSession = true := by
  rcases dispatch_cases hl hp with h | ⟨x, h, hx⟩ | ⟨n, h, hn⟩ | ⟨a, h⟩ | h
  · exact .inl h
  · exact .inr ⟨_, h, hx⟩
  · exact .inr ⟨_, h, decide_eq_true hn⟩
  · exact .inr ⟨_, h, rfl⟩
  · exact .inr ⟨_, h, rfl⟩

/-- DISPATCH never logs a failure of DECODE. -/
theorem decodeFailed_notMem_dispatch (hl : lookup c = some T) (hp : p.length = T.length) (e : ErrorName) :
    .log (.decodeFailed e) ∉ dispatch T p := by
  rcases dispatch_cases hl hp with h | ⟨x, h, -⟩ | ⟨n, h, -⟩ | ⟨a, h⟩ | h <;> simp [h]

/-- The one failure of DISPATCH is InvalidData, and its Log stands alone (R161). -/
theorem dispatch_of_dispatchFailed_mem (hl : lookup c = some T) (hp : p.length = T.length) {e : ErrorName}
    (he : .log (.dispatchFailed e) ∈ dispatch T p) :
    e = .invalidData ∧ dispatch T p = [.log (.dispatchFailed .invalidData)] := by
  rcases dispatch_cases hl hp with h | ⟨x, h, -⟩ | ⟨n, h, -⟩ | ⟨a, h⟩ | h <;> rw [h] at he ⊢
  case inr.inr.inr.inr => exact ⟨by simpa using he, rfl⟩
  all_goals simp at he

/-- Settles O25: the four `dev` entries are dropped before the match on names, the three `per` entries have an arm of
their own, which logs no NoHandler. -/
theorem dispatchDefaultArmUnreachable : Obligations.DispatchDefaultArmUnreachable := by
  intro c T p x hl
  rcases lookup_cases hl with ⟨-, rfl⟩ | ⟨-, rfl⟩ | ⟨-, rfl⟩ | ⟨-, rfl⟩ | ⟨-, rfl⟩ | ⟨-, rfl⟩ | ⟨-, rfl⟩
  case inl | inr.inl | inr.inr.inl | inr.inr.inr.inl => rw [dispatch_dev rfl]; exact List.not_mem_nil
  · change _ ∉ dispatchBatteryLevel p
    unfold dispatchBatteryLevel
    split <;> simp
  · change _ ∉ dispatchArmStatus p
    unfold dispatchArmStatus
    split
    · split <;> simp
    · simp
  · change _ ∉ dispatchRfidValue p
    simp [dispatchRfidValue]

/-- The two digits of the byte at index `i`. -/
theorem hexString_getElem? (p : List Byte) (i : Nat) {b : Byte} (hb : p[i]? = some b) :
    (hexString p)[2 * i]? = some (hexDigit (b.extractLsb' 4 4)) ∧
      (hexString p)[2 * i + 1]? = some (hexDigit (b.extractLsb' 0 4)) := by
  induction p generalizing i with
  | nil => simp at hb
  | cons x p ih =>
    cases i with
    | zero => cases hb; exact ⟨rfl, rfl⟩
    | succ i => exact ih i hb

/-- Settles O26: two digits a byte, in the order of the bytes, and the sixteen digit values one by one. -/
theorem hexStringDigits : Obligations.HexStringDigits := by
  intro p
  exact ⟨hexString_length p, fun i b => hexString_getElem? p i, by decide⟩

/-- Settles O31: the tests of the whole byte, and a byte that fails all four. -/
theorem armStateIsAClosedEnumeration : Obligations.ArmStateIsAClosedEnumeration := by
  refine ⟨rfl, rfl, rfl, rfl, fun v hv => ?_⟩
  simp only [List.mem_cons, List.not_mem_nil, or_false, not_or] at hv
  obtain ⟨h1, h2, h3, h4⟩ := hv
  simp only [armState, h1, h2, h3, h4, if_false]

end Sys2Proof.Machine
end

section
/-! PROOFS. FEED as a whole (42_stream_parser.md sections 4 to 7): how an attempt ends, what every step keeps of a
session, its buffer and its events, how many bytes an attempt takes, and streams of frames. -/

namespace Sys2Proof.Machine

variable {ss : Session} {b c : Byte} {T : Descriptor} {p : List Byte}

/-! The ends of an attempt. -/

theorem feedHeader_unknown (hl : lookup b = none) :
    feedHeader ss b = (⟨.readingPayload, 0, ss.buf ++ [b]⟩, [.log (.unknownTypeAtHeader b)]) := by
  simp only [feedHeader, hl, Session.append_buf]

/-- Where the byte is in the stop position, FEED is FINISH of the buffer with it (R127, R128). -/
theorem feed_eq_finish (h : (ss.pstate = .readingPayload ∧ ss.remaining = 0) ∨ ss.pstate = .readingFooter) :
    feed ss b = finish (ss.append b) := by
  rcases h with ⟨hs, hr⟩ | hs
  · rw [feed_of_readingPayload hs]; exact if_pos hr
  · exact feed_of_readingFooter hs

theorem finish_of_err {e : ErrorName} (hd : decodeFrame ss.buf = .err e) :
    finish ss = (Session.new, [.log (.decodeFailed e)]) := by
  simp only [finish, hd, takeError, Session.endAttempt_eq_new]

theorem finish_of_ok (hd : decodeFrame ss.buf = .ok (T, p)) : finish ss = (Session.new, dispatch T p) := by
  simp only [finish, hd, Session.endAttempt_eq_new]

/-- The byte after an unknown code ends the attempt, whatever it is (R127). -/
theorem feed_unknown (hl : lookup c = none) (b : Byte) :
    feed ⟨.readingPayload, 0, [Config.START, c]⟩ b =
      (Session.new, [.log (.decodeFailed (if b = Config.STOP then .unknownMessageType else .invalidFrameEnd))]) :=
  (feed_eq_finish (.inl ⟨rfl, rfl⟩)).trans (finish_of_err (decodeFrame_unknown hl b))

/-- The byte after a whole payload ends the attempt, by dispatch or by InvalidFrameEnd (R128 to R132). -/
theorem feed_footer (hl : lookup c = some T) (hp : p.length = T.length) (b : Byte) :
    feed ⟨.readingFooter, 1, Config.START :: c :: p⟩ b =
      (Session.new, if b = Config.STOP then dispatch T p else [.log (.decodeFailed .invalidFrameEnd)]) := by
  have hd := decodeFrame_footer hl hp b
  rw [feed_eq_finish (.inr rfl)]
  by_cases hb : b = Config.STOP
  · rw [if_pos hb] at hd ⊢; exact finish_of_ok hd
  · rw [if_neg hb] at hd ⊢; exact finish_of_err hd

/-- With nothing remaining in ReadingPayload, the buffer holds START and an unknown code (R34). -/
theorem Session.eq_of_none_remaining (h : ss.wf = true) (hs : ss.pstate = .readingPayload) (hr : ss.remaining = 0) :
    ∃ c, lookup c = none ∧ ss = ⟨.readingPayload, 0, [Config.START, c]⟩ := by
  rcases Session.wf_cases h with rfl | rfl | ⟨c, T, p, -, hlt, rfl⟩ | ⟨c, hl, rfl⟩ | ⟨c, T, p, -, -, rfl⟩
  case inr.inr.inr.inl => exact ⟨c, hl, rfl⟩
  case inr.inr.inl => exact absurd hr (Nat.sub_ne_zero_of_lt hlt)
  all_goals cases hs

/-- In ReadingFooter the buffer holds START, a known code and its whole payload (R34). -/
theorem Session.eq_of_readingFooter (h : ss.wf = true) (hs : ss.pstate = .readingFooter) :
    ∃ c T p, lookup c = some T ∧ p.length = T.length ∧ ss = ⟨.readingFooter, 1, Config.START :: c :: p⟩ := by
  rcases Session.wf_cases h with rfl | rfl | ⟨c, T, p, -, -, rfl⟩ | ⟨c, -, rfl⟩ | ⟨c, T, p, hl, hp, rfl⟩
  case inr.inr.inr.inr => exact ⟨c, T, p, hl, hp, rfl⟩
  all_goals cases hs

/-- Settles O14: by R34 the buffer held START alone, so the append leaves START and the unknown code. -/
theorem headerLogsUnknownType : Obligations.HeaderLogsUnknownType := by
  intro ss b h hs hl
  rw [feed_of_readingHeader hs, feedHeader_unknown hl, Session.buf_of_readingHeader h hs]
  rfl

/-- Settles O16: the buffer is START and an unknown code, and DECODE of it with the byte fails by the byte. -/
theorem unknownTypeTakesNextByteAsStop : Obligations.UnknownTypeTakesNextByteAsStop := by
  intro ss b h hs hr
  obtain ⟨c, hl, rfl⟩ := Session.eq_of_none_remaining h hs hr
  exact feed_unknown hl b

/-- Settles O17: the buffer is START, a known code and its whole payload, so only the stop byte is left to decide. -/
theorem footerEndsAttempt : Obligations.FooterEndsAttempt := by
  intro ss b c p T h hs hbuf hl
  obtain ⟨c', T', p', hl', hp', rfl⟩ := Session.eq_of_readingFooter h hs
  cases hbuf
  cases hl.symm.trans hl'
  exact feed_footer hl hp' b

/-! What every step keeps. -/

theorem Session.wf_payload (hl : lookup c = some T) (hp : p.length < T.length) :
    (Session.mk .readingPayload (T.length - p.length) (Config.START :: c :: p)).wf = true := by
  have h1 : 1 ≤ T.length - p.length := by omega
  have h2 : p.length = T.length - (T.length - p.length) := by omega
  simp [Session.wf, hl, h1, ← h2]

theorem Session.wf_unknown (hl : lookup c = none) :
    (Session.mk .readingPayload 0 [Config.START, c]).wf = true := by
  simp [Session.wf, hl]

theorem Session.wf_footer (hl : lookup c = some T) (hp : p.length = T.length) :
    (Session.mk .readingFooter 1 (Config.START :: c :: p)).wf = true := by
  simp [Session.wf, hl, hp]

/-- Settles O18: each row of the transition table ends in one of the five well-formed shapes. -/
theorem feedKeepsSessionWellFormed : Obligations.FeedKeepsSessionWellFormed := by
  intro ss b h
  rcases feed_cases h b with ⟨-, -, hf⟩ | ⟨-, -, hf⟩ | ⟨-, T, hl, hf⟩ | ⟨-, hl, hf⟩ | ⟨c, T, p, hl, hp, -, hf⟩ |
    ⟨c, T, p, hl, hp, -, hf⟩ | ⟨c, hl, -, hf⟩ | ⟨c, T, p, hl, hp, -, hf⟩ <;> rw [hf]
  · rfl
  · rfl
  · exact Session.wf_payload (p := []) hl (lookup_length hl).1
  · exact Session.wf_unknown hl
  · simpa using Session.wf_payload (p := p ++ [b]) hl (by simpa using hp)
  · exact Session.wf_footer hl (by simpa using hp)
  · rfl
  · rfl

/-- The four kinds of step by what they emit: nothing, an unknown code, a failure of DECODE, a dispatch (R142). -/
theorem feed_event_cases (h : ss.wf = true) (b : Byte) :
    (feed ss b).2 = [] ∨ (lookup b = none ∧ (feed ss b).2 = [.log (.unknownTypeAtHeader b)]) ∨
    (∃ e, (e = .invalidFrameEnd ∨ e = .unknownMessageType) ∧ feed ss b = (Session.new, [.log (.decodeFailed e)])) ∨
    ∃ c T p, lookup c = some T ∧ p.length = T.length ∧ feed ss b = (Session.new, dispatch T p) := by
  rcases feed_cases h b with ⟨-, -, hf⟩ | ⟨-, -, hf⟩ | ⟨-, T, hl, hf⟩ | ⟨-, hl, hf⟩ | ⟨c, T, p, hl, hp, -, hf⟩ |
    ⟨c, T, p, hl, hp, -, hf⟩ | ⟨c, hl, -, hf⟩ | ⟨c, T, p, hl, hp, -, hf⟩
  · exact .inl (by rw [hf])
  · exact .inl (by rw [hf])
  · exact .inl (by rw [hf])
  · exact .inr (.inl ⟨hl, by rw [hf]⟩)
  · exact .inl (by rw [hf])
  · exact .inl (by rw [hf])
  · exact .inr (.inr (.inl ⟨_, (ite_eq_or_eq _ _ _).symm, hf⟩))
  · by_cases hb : b = Config.STOP
    · exact .inr (.inr (.inr ⟨c, T, p, hl, hp, by rw [hf, if_pos hb]⟩))
    · exact .inr (.inr (.inl ⟨_, .inl rfl, by rw [hf, if_neg hb]⟩))

/-- FEED emits one legal event at most. -/
theorem feed_fromSession (h : ss.wf = true) (b : Byte) :
    (feed ss b).2 = [] ∨ ∃ e, (feed ss b).2 = [e] ∧ e.fromSession = true := by
  rcases feed_event_cases h b with hf | ⟨hl, hf⟩ | ⟨e, he, hf⟩ | ⟨c, T, p, hl, hp, hf⟩
  · exact .inl hf
  · exact .inr ⟨_, hf, Option.isNone_iff_eq_none.2 hl⟩
  · exact .inr ⟨.log (.decodeFailed e), by rw [hf], by simpa [Event.fromSession] using he⟩
  · rw [hf]; exact dispatch_fromSession hl hp

/-- Settles O19: the one event is legal, and no legal event of a session is a transmit. -/
theorem feedEmitsAtMostOneEvent : Obligations.FeedEmitsAtMostOneEvent := by
  intro ss b h
  rcases feed_fromSession h b with hn | ⟨e, he, hl⟩
  · exact .inl hn
  · exact .inr ⟨e, he, hl, Event.ne_transmit_of_fromSession hl⟩

/-- A DecodeFailed is logged where DECODE failed at the end of an attempt, and nowhere else (R117, R131). -/
theorem feed_of_decodeFailed_mem (h : ss.wf = true) {e : ErrorName} (he : .log (.decodeFailed e) ∈ (feed ss b).2) :
    feed ss b = (Session.new, [.log (.decodeFailed e)]) ∧ (e = .invalidFrameEnd ∨ e = .unknownMessageType) := by
  rcases feed_event_cases h b with hf | ⟨hl, hf⟩ | ⟨x, hx, hf⟩ | ⟨c, T, p, hl, hp, hf⟩ <;> rw [hf] at he
  · simp at he
  · simp at he
  · obtain rfl : e = x := by simpa using he
    exact ⟨hf, hx⟩
  · exact absurd he (decodeFailed_notMem_dispatch hl hp e)

/-- A DispatchFailed is logged where DISPATCH failed at the end of an attempt, and nowhere else (R161). -/
theorem feed_of_dispatchFailed_mem (h : ss.wf = true) {e : ErrorName} (he : .log (.dispatchFailed e) ∈ (feed ss b).2) :
    feed ss b = (Session.new, [.log (.dispatchFailed e)]) ∧ e = .invalidData := by
  rcases feed_event_cases h b with hf | ⟨hl, hf⟩ | ⟨x, hx, hf⟩ | ⟨c, T, p, hl, hp, hf⟩ <;> rw [hf] at he
  · simp at he
  · simp at he
  · simp at he
  · obtain ⟨rfl, hd⟩ := dispatch_of_dispatchFailed_mem hl hp he
    exact ⟨by rw [hf, hd], rfl⟩

/-- Settles O20: FINISH turns either failure into its one Log and the new session, and no other step logs one. -/
theorem feedContainsErrors : Obligations.FeedContainsErrors := by
  intro ss b h
  refine ⟨fun hend => ?_, fun e => feed_of_decodeFailed_mem h, fun e => feed_of_dispatchFailed_mem h⟩
  rw [feed_eq_finish hend]
  refine ⟨fun e hd => finish_of_err hd, fun T v hd hT ha => ?_⟩
  obtain ⟨c, -, hl, -⟩ := (decodeFrame_ok_iff _ _ _).1 hd
  have hdisp : dispatch T [v] = [.log (.dispatchFailed .invalidData)] := by
    obtain rfl : c = 0x82#8 := by rw [← lookup_code hl, hT]; rfl
    cases hl
    exact dispatchArmStatus_of_none ha
  exact (finish_of_ok hd).trans (by rw [hdisp])

/-- Settles O21: the longest of the five shapes is START, a code and sixteen payload bytes. -/
theorem bufferStaysWithinCapacity : Obligations.BufferStaysWithinCapacity := by
  intro ss b h
  have hshape : ss.buf.length ≤ 18 ∧ (ss.buf ≠ [] → Memory.read ss.buf 0 = some 0x8A#8) ∧ ss.remaining ≤ 16 := by
    rcases Session.wf_cases h with rfl | rfl | ⟨c, T, p, hl, hp, rfl⟩ | ⟨c, hl, rfl⟩ | ⟨c, T, p, hl, hp, rfl⟩
    · simp
    · simp [Memory.read]
    · have := (lookup_length hl).2
      exact ⟨by simp; omega, fun _ => rfl, by simp; omega⟩
    · simp [Memory.read]
    · have := (lookup_length hl).2
      exact ⟨by simp; omega, fun _ => rfl, by simp⟩
  obtain ⟨hlen, hread, hrem⟩ := hshape
  exact ⟨(Memory.wf_iff _).2 (by simp; omega), hlen, hread, Memory.wf_append b (by simp; omega), hrem⟩

/-- A step either goes on with the attempt and appends its byte, or leaves the session as at creation. -/
theorem feed_appends_or_new (h : ss.wf = true) (b : Byte) :
    ((feed ss b).1.pstate ≠ .idle ∧ (feed ss b).1.buf = Memory.append ss.buf b) ∨ (feed ss b).1 = Session.new := by
  rcases feed_cases h b with ⟨-, -, hf⟩ | ⟨rfl, rfl, hf⟩ | ⟨rfl, T, -, hf⟩ | ⟨rfl, -, hf⟩ | ⟨c, T, p, -, -, rfl, hf⟩ |
    ⟨c, T, p, -, -, rfl, hf⟩ | ⟨c, -, -, hf⟩ | ⟨c, T, p, -, -, -, hf⟩ <;> rw [hf]
  case inl | inr.inr.inr.inr.inr.inr.inl | inr.inr.inr.inr.inr.inr.inr => exact .inr rfl
  all_goals exact .inl ⟨nofun, rfl⟩

/-- Settles O22: an append is at the old length and leaves the rest, a new session's buffer is empty, and noise in Idle
is discarded. -/
theorem bufferIsAppendOnly : Obligations.BufferIsAppendOnly := by
  intro ss b h
  refine ⟨fun hs => ?_, fun hs a => ?_, fun hs hb => by rw [idleDiscardsNoise ss b h hs hb]⟩
  · rcases feed_appends_or_new h b with ⟨-, hbuf⟩ | hnew
    · rw [hbuf]
      exact ⟨fun a ha => Memory.read_append_other b ha, Memory.read_append_new ss.buf b⟩
    · exact absurd (by rw [hnew]; rfl) hs
  · rcases feed_appends_or_new h b with ⟨hne, -⟩ | hnew
    · exact absurd hs hne
    · rw [hnew]; rfl

/-! FEEDS keeps what FEED keeps. -/

theorem feeds_wf (h : ss.wf = true) (bs : List Byte) : (feeds ss bs).1.wf = true := by
  induction bs generalizing ss with
  | nil => exact h
  | cons b bs ih => exact ih (feedKeepsSessionWellFormed ss b h)

theorem feeds_fromSession (h : ss.wf = true) (bs : List Byte) : ∀ e ∈ (feeds ss bs).2, e.fromSession = true := by
  induction bs generalizing ss with
  | nil => exact fun e he => absurd he List.not_mem_nil
  | cons b bs ih =>
    intro e he
    rw [feeds_cons, List.mem_append] at he
    rcases he with he | he
    · rcases feed_fromSession h b with hn | ⟨x, hx, hxl⟩
      · rw [hn] at he; exact absurd he List.not_mem_nil
      · rw [hx, List.mem_singleton] at he; exact he ▸ hxl
    · exact ih (feedKeepsSessionWellFormed ss b h) e he

/-! How many bytes an attempt takes. -/

theorem feed_new_start : feed Session.new Config.START = (⟨.readingHeader, 1, [Config.START]⟩, []) :=
  idleOpensAttemptOnStart Session.new rfl rfl

/-- START and a known code open an attempt that waits for the payload. -/
theorem feeds_new_known (hl : lookup c = some T) (bs : List Byte) :
    (feeds Session.new ([Config.START, c] ++ bs)).1 = (feeds ⟨.readingPayload, T.length, [Config.START, c]⟩ bs).1 := by
  have hc := headerResolvesKnownType ⟨.readingHeader, 1, [Config.START]⟩ c T rfl rfl hl
  rw [List.cons_append, feeds_cons, feed_new_start, List.cons_append, feeds_cons, hc]
  rfl

/-- Fewer bytes than the payload leave the session in ReadingPayload. -/
theorem feeds_payload_part (n : Nat) (buf p : List Byte) (hp : p.length < n) :
    feeds ⟨.readingPayload, n, buf⟩ p = (⟨.readingPayload, n - p.length, buf ++ p⟩, []) := by
  induction p generalizing n buf with
  | nil => simp
  | cons b p ih =>
    rw [List.length_cons] at hp
    rw [feeds_cons, feed_of_readingPayload rfl, feedPayload_more (by simp; omega)]
    simp only [ih (n - 1) (buf ++ [b]) (by omega), List.length_cons, List.append_assoc, List.cons_append,
      List.nil_append, Nat.sub_sub, Nat.add_comm 1]

/-- Settles O23: the bytes before the stop position are only counted, and the byte there ends the attempt. -/
theorem attemptConsumesFixedByteCount : Obligations.AttemptConsumesFixedByteCount := by
  refine ⟨fun c T bs hl => ?_, fun c b hl => ?_⟩
  · have h1 := (lookup_length hl).1
    have hwhole : ∀ p : List Byte, p.length = T.length →
        feeds ⟨.readingPayload, T.length, [Config.START, c]⟩ p = (⟨.readingFooter, 1, Config.START :: c :: p⟩, []) :=
      fun p hp => hp ▸ feeds_payload [Config.START, c] p (List.ne_nil_of_length_pos (by omega))
    refine ⟨fun hlt => ?_, fun heq => ?_⟩
    · rw [feeds_new_known hl]
      rcases Nat.lt_or_eq_of_le (Nat.le_of_lt_succ hlt) with hlt | heq
      · rw [feeds_payload_part _ _ _ hlt]; nofun
      · rw [hwhole bs heq]; nofun
    · obtain rfl | ⟨p, b, rfl⟩ := List.eq_nil_or_concat' bs
      · simp at heq
      have hp : p.length = T.length := by simpa using heq
      rw [feeds_new_known hl, feeds_append, hwhole p hp, feeds_singleton, feed_footer hl hp]
  · have hc := headerLogsUnknownType ⟨.readingHeader, 1, [Config.START]⟩ c rfl rfl hl
    simp only [feeds_cons, feeds_nil, feed_new_start, hc, feed_unknown hl]
    exact ⟨nofun, nofun, trivial⟩

/-! Streams of frames. -/

/-- Noise received in Idle changes nothing and emits nothing. -/
theorem feeds_noise {noise : List Byte} (hn : ∀ b ∈ noise, b ≠ Config.START) :
    feeds Session.new noise = (Session.new, []) := by
  induction noise with
  | nil => rfl
  | cons b noise ih =>
    rw [List.forall_mem_cons] at hn
    rw [feeds_cons, idleDiscardsNoise Session.new b rfl rfl hn.1]
    exact ih hn.2

/-- Settles O24: by induction on the frames; after noise the session is new, and so it is after a frame. -/
theorem framesAfterNoiseAreAllDispatched : Obligations.FramesAfterNoiseAreAllDispatched := by
  intro parts hparts
  induction parts with
  | nil => rfl
  | cons x parts ih =>
    rw [List.forall_mem_cons] at hparts
    obtain ⟨⟨hnoise, hvalid⟩, hrest⟩ := hparts
    obtain ⟨T, p, hd⟩ := (validFrame_iff x.2).1 hvalid
    obtain ⟨c, hx, hl, hp⟩ := (decodeFrame_ok_iff _ _ _).1 hd
    have hframe : feeds Session.new x.2 = (Session.new, dispatch T p) := hx ▸ feeds_frame hl hp
    simp only [List.flatMap_cons, feeds_append, feeds_noise hnoise, hframe, ih hrest, hd, List.nil_append]

end Sys2Proof.Machine
end

section
/-! PROOFS. The instructions (00_scope.md section 5, 42_stream_parser.md): each is the delivery of its bytes to the
session of the current link, so what FEED and FEEDS do is what it does, and the rest of the state is its frame. -/

namespace Sys2Proof.Machine

variable {s : State} {ss ss' : Session} {i : Instr} {b c : Byte} {es : List Event}

/-- Settles O27: every instruction is `receive` of its bytes. -/
theorem everyInstructionFeedsItsBytes : Obligations.EveryInstructionFeedsItsBytes := by
  intro i s ss h
  rw [exec_eq_receive, receive_of_ready h]

/-! Whole frames received in Idle. -/

/-- Settles O30: DISPATCH of an ArmStatus payload, by what its one byte names. -/
theorem armStatusInvokesHandlerOrFails : Obligations.ArmStatusInvokesHandlerOrFails := by
  intro s v h
  have hexec := exec_frame_of_new (i := .armStatus v) (c := 0x82#8) (p := [v]) h rfl rfl rfl
  exact ⟨fun a ha => hexec.trans (by rw [← dispatchArmStatus_of_some ha]; rfl),
    fun ha => hexec.trans (by rw [← dispatchArmStatus_of_none ha]; rfl)⟩

/-- Settles O32: DISPATCH of an RfidValue payload hands on its hexadecimal string. -/
theorem rfidValueInvokesHandler : Obligations.RfidValueInvokesHandler := by
  intro s p h hp
  exact exec_frame_of_new (c := 0x84#8) h rfl rfl hp

/-! One-byte rows by position. -/

/-- A one-byte row is one FEED of its byte. -/
theorem exec_byte (h : s.Ready s.link ss) (he : encode i = [b]) (hf : feed ss b = (ss', es)) :
    exec i s = .next ((s.setSession s.link ss').emit (.link s.link) es) := by
  rw [everyInstructionFeedsItsBytes i s ss h, he, feeds_singleton, hf]

/-- A one-byte row whose FEED emits nothing. -/
theorem exec_byte_silent (h : s.Ready s.link ss) (he : encode i = [b]) (hf : feed ss b = (ss', [])) :
    exec i s = .next (s.setSession s.link ss') := by
  rw [exec_byte h he hf, State.emit_nil]

/-- A session written twice holds the second. -/
@[simp] theorem State.setSession_setSession (s : State) (k : Nat) (x y : Session) :
    (s.setSession k x).setSession k y = s.setSession k y := by
  simp [State.setSession]

/-- The one payload byte of a type is stored, whatever it is, and STOP then dispatches it (R126, R128). -/
theorem exec_payload_then_stop {T : Descriptor} (hl : lookup c = some T) (hT : T.length = 1)
    (h : s.session? s.link = some ⟨.readingPayload, 1, [Config.START, c]⟩) (he : encode i = [b]) :
    exec i s = .next (s.setSession s.link ⟨.readingFooter, 1, [Config.START, c, b]⟩) ∧
    exec .stop (s.setSession s.link ⟨.readingFooter, 1, [Config.START, c, b]⟩) =
      .next ((s.setSession s.link Session.new).emit (.link s.link) (dispatch T [b])) := by
  have hwf : (Session.mk .readingPayload 1 [Config.START, c]).wf = true := by
    simpa [hT] using Session.wf_payload (p := []) hl (by simp [hT])
  have hstore := (payloadByteIsCounted _ b hwf rfl).2 rfl
  have hstop := feed_footer (p := [b]) hl hT.symm Config.STOP
  rw [if_pos rfl] at hstop
  have hready : (s.setSession s.link ⟨.readingFooter, 1, [Config.START, c, b]⟩).Ready s.link
      ⟨.readingFooter, 1, [Config.START, c, b]⟩ :=
    ⟨State.session?_setSession_self h _, Session.wf_footer hl hT.symm⟩
  refine ⟨exec_byte_silent ⟨h, hwf⟩ he hstore, ?_⟩
  rw [exec_byte hready rfl hstop, State.setSession_link, State.setSession_setSession]

/-- Settles O33: each of the four bytes is dispatched as the state it names. -/
theorem armStateBytesInAnArmStatusFrame : Obligations.ArmStateBytesInAnArmStatusFrame := by
  intro s i b a hrow h
  have hbyte : encode i = [b] ∧ armState b = some a := by
    simp only [List.mem_cons, List.not_mem_nil, or_false, Prod.mk.injEq] at hrow
    rcases hrow with ⟨rfl, rfl, rfl⟩ | ⟨rfl, rfl, rfl⟩ | ⟨rfl, rfl, rfl⟩ | ⟨rfl, rfl, rfl⟩ <;> exact ⟨rfl, rfl⟩
  obtain ⟨he, ha⟩ := hbyte
  rw [← dispatchArmStatus_of_some ha]
  exact exec_payload_then_stop rfl rfl h he

/-- Settles O34: both types are `dev`, so STOP dispatches nothing. -/
theorem boolBytesInABooleanFrame : Obligations.BoolBytesInABooleanFrame := by
  intro s i b c hrow hc h
  have he : encode i = [b] := by
    simp only [List.mem_cons, List.not_mem_nil, or_false, Prod.mk.injEq] at hrow
    rcases hrow with ⟨rfl, rfl⟩ | ⟨rfl, rfl⟩ <;> rfl
  have hT : ∃ T, lookup c = some T ∧ T.length = 1 ∧ T.dir = .dev := by
    simp only [List.mem_cons, List.not_mem_nil, or_false] at hc
    rcases hc with rfl | rfl <;> exact ⟨_, rfl, rfl, rfl⟩
  obtain ⟨T, hl, hlen, hdev⟩ := hT
  have hexec := exec_payload_then_stop hl hlen h he
  rwa [dispatch_dev hdev, State.emit_nil] at hexec

/-- Settles O35: START is one FEED of 0x8A, and each clause is the branch of FEED for that position. -/
theorem startMeansItsPosition : Obligations.StartMeansItsPosition := by
  intro s ss h
  have hwf := h.2
  refine ⟨fun hs => ?_, fun hs => ?_, fun hs hr => ?_, fun hs hr => ?_, fun hs hr => ?_, fun hs => ?_⟩
  · exact exec_byte_silent h rfl (idleOpensAttemptOnStart ss hwf hs)
  · exact exec_byte h rfl (headerLogsUnknownType ss _ hwf hs rfl)
  · exact exec_byte_silent h rfl ((payloadByteIsCounted ss _ hwf hs).1 hr)
  · exact exec_byte_silent h rfl ((payloadByteIsCounted ss _ hwf hs).2 hr)
  · exact exec_byte h rfl (unknownTypeTakesNextByteAsStop ss _ hwf hs hr)
  · obtain ⟨c, T, p, hl, hp, rfl⟩ := Session.eq_of_readingFooter hwf hs
    exact exec_byte h rfl (feed_footer hl hp _)

/-- Settles O36: STOP is one FEED of 0x51, and each clause is the branch of FEED for that position. -/
theorem stopMeansItsPosition : Obligations.StopMeansItsPosition := by
  intro s ss h
  have ⟨hss, hwf⟩ := h
  refine ⟨fun hs => ?_, fun hs => ?_, fun hs hr => ?_, fun hs hr => ?_, fun hs hr => ?_, fun c T p hs hbuf hl => ?_⟩
  · rw [exec_byte_silent h rfl (idleDiscardsNoise ss 0x51#8 hwf hs (by decide)), State.setSession_same hss]
  · exact exec_byte h rfl (headerLogsUnknownType ss _ hwf hs rfl)
  · exact exec_byte_silent h rfl ((payloadByteIsCounted ss _ hwf hs).1 hr)
  · exact exec_byte_silent h rfl ((payloadByteIsCounted ss _ hwf hs).2 hr)
  · exact exec_byte h rfl (unknownTypeTakesNextByteAsStop ss _ hwf hs hr)
  · exact exec_byte h rfl (footerEndsAttempt ss _ c p T hwf hs hbuf hl)

/-! The frame, and the stops. -/

/-- Events of one origin are no part of another's trace. -/
theorem State.traceOf_emit_ne {o o' : Origin} (ho : o ≠ o') (s : State) (es : List Event) :
    (s.emit o' es).traceOf o = s.traceOf o := by
  simp [State.traceOf, List.filter_map, Function.comp_def, Ne.symm ho]

/-- Settles O37: `receive` writes the current link's session and emits its events, and nothing else. -/
theorem instructionLeavesTheRestUnchanged : Obligations.InstructionLeavesTheRestUnchanged := by
  intro i s t h
  rw [exec_eq_receive] at h
  obtain ⟨ss, ⟨hss, hwf⟩, rfl⟩ := receive_next h
  have hother : ∀ k, k ≠ s.link → (s.setSession s.link (feeds ss (encode i)).1).session? k = s.session? k :=
    fun k hk => State.session?_setSession_ne hk _
  refine ⟨rfl, rfl, rfl, by simp, fun k hk => ⟨hother k hk, fun a => ?_⟩,
    ⟨_, rfl, feeds_fromSession hwf _⟩, fun o ho => State.traceOf_emit_ne ho _ _⟩
  simp only [State.readByte, State.session?_emit, hother k hk]

/-- Settles O38: both rows deliver the byte 0x01. -/
theorem oneWordRowsHaveOneEffect : Obligations.OneWordRowsHaveOneEffect := by
  intro s
  rw [exec_eq_receive, exec_eq_receive]
  rfl

theorem receive_of_noSession (h : s.session? s.link = none) (bs : List Byte) :
    receive bs s = .fault (.noSession s.link) := by
  simp only [receive, h]

theorem receive_of_illFormed (h : s.session? s.link = some ss) (hwf : ss.wf = false) (bs : List Byte) :
    receive bs s = .refused .sessionNotWellFormed := by
  simp [receive, h, hwf]

/-- Settles O39: the two ways `receive` stops. -/
theorem instructionStopsWithoutAWellFormedSession : Obligations.InstructionStopsWithoutAWellFormedSession := by
  intro i s
  rw [exec_eq_receive]
  exact ⟨fun ss h hwf => receive_of_illFormed h hwf _, fun h => receive_of_noSession h _⟩

end Sys2Proof.Machine
end

section
/-! PROOFS. The step (10_state.md section 5, 42_stream_parser.md section 7, 60_exceptions.md): a delivery is FEEDS
whether or not its bytes are a row of the table, and every call is of one of six kinds, from which the invariant,
progress and independence of the record follow. -/

namespace Sys2Proof.Machine

variable {s t : State} {ss : Session} {k : Nat} {bs : List Byte} {rest : List HostCall} {c : HostCall} {o : Origin}
  {es : List Event}

/-! What a call does. -/

theorem deliver_of_instr {i : Instr} (h : decode bs = .instr i) (k : Nat) (s : State) :
    deliver k bs s = exec i { s with link := k } := by
  simp only [deliver, h]

theorem deliver_of_rejected {r : Reject} (h : decode bs = .rejected r) (k : Nat) (s : State) :
    deliver k bs s = receive bs { s with link := k } := by
  simp only [deliver, h]

/-- A delivery is `receive` of its bytes: a row of the table is no more than its bytes (R143). -/
theorem deliver_eq_receive (k : Nat) (bs : List Byte) (s : State) :
    deliver k bs s = receive bs { s with link := k } := by
  cases h : decode bs with
  | instr i => rw [deliver_of_instr h, exec_eq_receive, (encodeOfDecodeGivesBytes bs i h).2]
  | rejected r => exact deliver_of_rejected h k s

theorem step_of_deliver (h : s.pending = .deliver k bs :: rest) :
    step s = receive bs { s with pending := rest, link := k } :=
  (step_of_pending h).trans (deliver_eq_receive k bs _)

/-- The six kinds of call: a delivery, an overlap, a command, the creation and the end of a session, and a direct call,
which only gives a result back. -/
theorem performCall_cases (c : HostCall) :
    (∃ k bs, c = .deliver k bs) ∨ (∃ k a b, c = .overlap k a b) ∨
    (∃ valid code T p answer, lookup code = some T ∧ p.length = T.length ∧ T.dir = .dev ∧
      ∀ s, performCall c s = .next (sendIfValid valid code p answer s)) ∨
    c = .createSession ∨ (∃ k, c = .dropSession k) ∨ ∃ r, ∀ s, performCall c s = .next (s.give r) := by
  cases c with
  | deliver k bs => exact .inl ⟨k, bs, rfl⟩
  | overlap k a b => exact .inr (.inl ⟨k, a, b, rfl⟩)
  | setToolId id answer =>
    obtain ⟨code, T, p, h⟩ := performCall_command (.inl ⟨id, rfl, rfl⟩)
    exact .inr (.inr (.inl ⟨_, code, T, p, answer, h⟩))
  | setToolName name answer =>
    obtain ⟨code, T, p, h⟩ := performCall_command (.inr (.inl ⟨name, rfl, rfl⟩))
    exact .inr (.inr (.inl ⟨_, code, T, p, answer, h⟩))
  | setFollowMode e answer =>
    obtain ⟨code, T, p, h⟩ := performCall_command (.inr (.inr (.inl ⟨e, rfl, rfl⟩)))
    exact .inr (.inr (.inl ⟨_, code, T, p, answer, h⟩))
  | setRfidValidity v answer =>
    obtain ⟨code, T, p, h⟩ := performCall_command (.inr (.inr (.inr ⟨v, rfl, rfl⟩)))
    exact .inr (.inr (.inl ⟨_, code, T, p, answer, h⟩))
  | createSession => exact .inr (.inr (.inr (.inl rfl)))
  | dropSession k => exact .inr (.inr (.inr (.inr (.inl ⟨k, rfl⟩))))
  | lookup x => exact .inr (.inr (.inr (.inr (.inr ⟨_, fun _ => rfl⟩))))
  | encode x p => exact .inr (.inr (.inr (.inr (.inr ⟨_, fun _ => rfl⟩))))
  | decode f => exact .inr (.inr (.inr (.inr (.inr ⟨_, fun _ => rfl⟩))))

theorem dropSession_of_session (h : s.session? k = some ss) :
    dropSession k s = .next { s with sessions := s.sessions.set k none } := by
  simp only [dropSession, h]

theorem dropSession_of_noSession (h : s.session? k = none) : dropSession k s = .fault (.noSession k) := by
  simp only [dropSession, h]

/-! Single steps. -/

/-- Settles O40: the call is taken off the tape and its bytes decode to the instruction; `withFetchWord` puts that call
first. -/
theorem stepRunsTheDecodedInstruction : Obligations.StepRunsTheDecodedInstruction := by
  have hrun : ∀ (s : State) (k : Nat) (bs : List Byte) (rest : List HostCall) (i : Instr),
      s.pending = .deliver k bs :: rest → decode bs = .instr i →
      step s = exec i { s with pending := rest, link := k } :=
    fun s k bs rest i h hd => (step_of_pending h).trans (deliver_of_instr hd k _)
  refine ⟨hrun, fun s nbits w i h => ?_⟩
  have hd : decode (wordBytes nbits w) = .instr i := by
    unfold decodeTableWord at h
    split at h
    · next hd => rw [hd, Option.some.inj h]
    · cases h
  exact hrun _ s.link _ s.pending i rfl hd

/-- Settles O41: a delivery is `receive`, and a Ready session is where `receive` is FEEDS. -/
theorem everyDeliveryIsFEEDS : Obligations.EveryDeliveryIsFEEDS := by
  intro s k bs rest ss h hready
  rw [step_of_deliver h]
  exact receive_of_ready (s := { s with pending := rest, link := k }) hready bs

/-- Settles O42: FEEDS over a cut, and the session after the first part is well formed and read back by the second. -/
theorem chunkingDoesNotMatter : Obligations.ChunkingDoesNotMatter := by
  intro s k a b rest ss h
  refine ⟨_, _, everyDeliveryIsFEEDS _ k (a ++ b) rest ss rfl h,
    everyDeliveryIsFEEDS _ k a (.deliver k b :: rest) ss rfl h,
    (everyDeliveryIsFEEDS _ k b rest (feeds ss a).1 rfl ⟨?_, feeds_wf h.2 a⟩).trans ?_⟩
  · exact State.session?_setSession_self (s := { s with pending := .deliver k b :: rest, link := k }) h.1 _
  · simp [feeds_append, State.setSession, State.emit]

/-- Settles O43: the wait answers the same state. -/
theorem waitsUntilTheHostMoves : Obligations.WaitsUntilTheHostMoves := by
  intro s h
  simp only [step, nextCall, h, waitForHost]

/-- Settles O44: the call `overlap` is refused whatever it delivers. -/
theorem overlappingFeedsAreRefused : Obligations.OverlappingFeedsAreRefused := by
  intro s k a b rest h
  exact step_of_pending h

/-! The invariant. -/

theorem State.sessionsWf_set {x : Option Session} (h : s.sessionsWf = true) (hx : x.all Session.wf = true) (k : Nat) :
    State.sessionsWf { s with sessions := s.sessions.set k x } = true := by
  rw [State.sessionsWf, List.all_eq_true] at h ⊢
  intro y hy
  rcases List.mem_or_eq_of_mem_set hy with hy | rfl
  · exact h y hy
  · exact hx

theorem State.Inv.setSession (h : s.Inv) (hwf : ss.wf = true) (k : Nat) : (s.setSession k ss).Inv :=
  ⟨State.sessionsWf_set (x := some ss) h.1 hwf k, h.2⟩

theorem State.Inv.emit (h : s.Inv) (hes : ∀ e ∈ es, (Record.mk o e).legal = true) : (s.emit o es).Inv := by
  refine ⟨h.1, fun r hr => ?_⟩
  rw [State.emit_trace, List.mem_append, List.mem_map] at hr
  rcases hr with hr | ⟨e, he, rfl⟩
  · exact h.2 r hr
  · exact hes e he

theorem State.Inv.give (h : s.Inv) (r : Return) : (s.give r).Inv := h

/-- Feeding keeps the invariant: the session stays well formed and its events are legal. -/
theorem State.Inv.receive (h : s.Inv) (ht : Machine.receive bs s = .next t) : t.Inv := by
  obtain ⟨ss, ⟨-, hwf⟩, rfl⟩ := receive_next ht
  exact (h.setSession (feeds_wf hwf bs) _).emit (feeds_fromSession hwf bs)

/-- A command keeps the invariant: what it transmits is a `dev` frame. -/
theorem State.Inv.sendIfValid {code : Byte} {T : Descriptor} {p : List Byte} (h : s.Inv) (hl : lookup code = some T)
    (hp : p.length = T.length) (hdev : T.dir = .dev) (valid answer : Bool) :
    (Machine.sendIfValid valid code p answer s).Inv := by
  cases valid with
  | false => exact h.give _
  | true =>
    rw [sendIfValid_true hl hp]
    refine (h.emit fun e he => ?_).give _
    rw [List.mem_singleton.1 he]
    exact devFrame_frameBytes hl hp hdev

theorem State.Inv.createSession (h : s.Inv) : (Machine.createSession s).Inv := by
  refine ⟨?_, h.2⟩
  have hs := h.1
  simp only [State.sessionsWf, Machine.createSession, State.give_sessions, List.all_append] at hs ⊢
  rw [hs]; rfl

theorem State.Inv.dropSession (h : s.Inv) (ht : Machine.dropSession k s = .next t) : t.Inv := by
  cases hs : s.session? k with
  | none => rw [dropSession_of_noSession hs] at ht; cases ht
  | some ss =>
    rw [dropSession_of_session hs] at ht
    cases ht
    exact ⟨State.sessionsWf_set h.1 rfl k, h.2⟩

/-- Every call that answers a next state keeps the invariant. -/
theorem State.Inv.performCall (h : s.Inv) (ht : Machine.performCall c s = .next t) : t.Inv := by
  rcases performCall_cases c with ⟨k, bs, rfl⟩ | ⟨k, a, b, rfl⟩ | ⟨valid, code, T, p, answer, hl, hp, hdev, hc⟩ | rfl |
    ⟨k, rfl⟩ | ⟨r, hc⟩
  · exact State.Inv.receive (s := { s with link := k }) h ((deliver_eq_receive k bs s).symm.trans ht)
  · cases ht
  · rw [hc] at ht; cases ht; exact h.sendIfValid hl hp hdev valid answer
  · cases ht; exact h.createSession
  · exact h.dropSession ht
  · rw [hc] at ht; cases ht; exact h.give r

/-- Settles O45: a step is a wait or a call, and the tape is no part of the invariant. -/
theorem stepKeepsTheInvariant : Obligations.StepKeepsTheInvariant := by
  intro s t h ht
  cases hp : s.pending with
  | nil => rw [waitsUntilTheHostMoves s hp] at ht; cases ht; exact h
  | cons c rest =>
    rw [step_of_pending hp] at ht
    exact State.Inv.performCall (s := { s with pending := rest }) h ht

/-- Settles O46: the one session is new and the trace is empty. -/
theorem resetMeetsTheInvariant : Obligations.ResetMeetsTheInvariant :=
  ⟨rfl, fun _ hr => absurd hr List.not_mem_nil⟩

/-- Settles O47: the fields of the state after reset, one by one. -/
theorem resetIsOneNewSession : Obligations.ResetIsOneNewSession :=
  ⟨rfl, rfl, rfl, rfl, rfl, rfl⟩

/-! Progress and independence. -/

/-- Settles O48: by the kind of the next call; `callAllowed` gives a delivery and a drop their session. -/
theorem noErrorStopsTheHardware : Obligations.NoErrorStopsTheHardware := by
  intro s hwf hallowed
  cases hpend : s.pending with
  | nil => exact ⟨s, waitsUntilTheHostMoves s hpend⟩
  | cons c rest =>
    rcases performCall_cases c with ⟨k, bs, rfl⟩ | ⟨k, a, b, rfl⟩ | ⟨valid, code, T, p, answer, -, -, -, hc⟩ | rfl |
      ⟨k, rfl⟩ | ⟨r, hc⟩
    · simp only [State.callAllowed, hpend] at hallowed
      obtain ⟨ss, hss⟩ := Option.isSome_iff_exists.1 hallowed
      exact ⟨_, everyDeliveryIsFEEDS s k bs rest ss hpend ⟨hss, (State.sessionsWf_iff s).1 hwf k ss hss⟩⟩
    · simp [State.callAllowed, hpend] at hallowed
    · exact ⟨_, (step_of_pending hpend).trans (hc _)⟩
    · exact ⟨_, step_of_pending hpend⟩
    · simp only [State.callAllowed, hpend] at hallowed
      obtain ⟨ss, hss⟩ := Option.isSome_iff_exists.1 hallowed
      exact ⟨_, (step_of_pending hpend).trans (dropSession_of_session hss)⟩
    · exact ⟨_, (step_of_pending hpend).trans (hc _)⟩

/-- Settles O49: both runs are FEEDS of the same bytes on the same session. -/
theorem sessionsAreIndependent : Obligations.SessionsAreIndependent := by
  intro s u s' k bs rest rest' hs hu hagree hstep
  rw [step_of_deliver hs] at hstep
  obtain ⟨ss, ⟨hss, hwf⟩, rfl⟩ := receive_next hstep
  replace hss : s.session? k = some ss := hss
  have huss : u.session? k = some ss := hagree.symm.trans hss
  refine ⟨_, _, everyDeliveryIsFEEDS u k bs rest' ss hu ⟨huss, hwf⟩, ?_, rfl, rfl, fun j hj => ⟨?_, ?_⟩⟩
  · exact (State.session?_setSession_self hss _).trans (State.session?_setSession_self huss _).symm
  · exact State.session?_setSession_ne hj _
  · exact State.session?_setSession_ne hj _

/-! The record is never read back. -/

/-- The state with an earlier trace and earlier results put before its own. -/
def State.withHistory (tr : List Record) (rs : List Return) (s : State) : State :=
  { s with trace := tr ++ s.trace, returns := rs ++ s.returns }

/-- An outcome with the same put before what its next state holds. -/
def outcomeWithHistory (tr : List Record) (rs : List Return) : Outcome → Outcome
  | .next t => .next (t.withHistory tr rs)
  | .fault r => .fault r
  | .refused r => .refused r

variable (tr : List Record) (rs : List Return)

theorem State.emit_withHistory (s : State) (o : Origin) (es : List Event) :
    (s.withHistory tr rs).emit o es = (s.emit o es).withHistory tr rs := by
  simp [State.emit, State.withHistory]

theorem State.give_withHistory (s : State) (r : Return) :
    (s.withHistory tr rs).give r = (s.give r).withHistory tr rs := by
  simp [State.give, State.withHistory]

theorem receive_withHistory (bs : List Byte) (s : State) :
    receive bs (s.withHistory tr rs) = outcomeWithHistory tr rs (receive bs s) := by
  cases hs : s.session? s.link with
  | none => rw [receive_of_noSession hs, receive_of_noSession (s := s.withHistory tr rs) hs]; rfl
  | some ss =>
    cases hwf : ss.wf with
    | false => rw [receive_of_illFormed hs hwf, receive_of_illFormed (s := s.withHistory tr rs) hs hwf]; rfl
    | true =>
      rw [receive_of_ready ⟨hs, hwf⟩, receive_of_ready (s := s.withHistory tr rs) ⟨hs, hwf⟩, outcomeWithHistory,
        ← State.emit_withHistory]
      rfl

theorem sendIfValid_withHistory {code : Byte} {T : Descriptor} {p : List Byte} (hl : lookup code = some T)
    (hp : p.length = T.length) (valid answer : Bool) (s : State) :
    sendIfValid valid code p answer (s.withHistory tr rs) = (sendIfValid valid code p answer s).withHistory tr rs := by
  cases valid with
  | false => exact State.give_withHistory tr rs s _
  | true => simp only [sendIfValid_true hl hp, State.emit_withHistory, State.give_withHistory]

theorem dropSession_withHistory (k : Nat) (s : State) :
    dropSession k (s.withHistory tr rs) = outcomeWithHistory tr rs (dropSession k s) := by
  cases hs : s.session? k with
  | none => rw [dropSession_of_noSession hs, dropSession_of_noSession (s := s.withHistory tr rs) hs]; rfl
  | some ss => rw [dropSession_of_session hs, dropSession_of_session (s := s.withHistory tr rs) hs]; rfl

/-- Every call commutes with an earlier record. -/
theorem performCall_withHistory (c : HostCall) (s : State) :
    performCall c (s.withHistory tr rs) = outcomeWithHistory tr rs (performCall c s) := by
  rcases performCall_cases c with ⟨k, bs, rfl⟩ | ⟨k, a, b, rfl⟩ | ⟨valid, code, T, p, answer, hl, hp, -, hc⟩ | rfl |
    ⟨k, rfl⟩ | ⟨r, hc⟩
  · exact (deliver_eq_receive k bs _).trans ((receive_withHistory tr rs bs { s with link := k }).trans
      (congrArg _ (deliver_eq_receive k bs s).symm))
  · rfl
  · rw [hc, hc, sendIfValid_withHistory tr rs hl hp]; rfl
  · exact congrArg Host.Outcome.next
      (State.give_withHistory tr rs { s with sessions := s.sessions ++ [some Session.new] } _)
  · exact dropSession_withHistory tr rs k s
  · rw [hc, hc, State.give_withHistory]; rfl

/-- Settles O50: the tape is the same in both runs, and the call at its head commutes with an earlier record. -/
theorem traceIsNeverReadBack : Obligations.TraceIsNeverReadBack := by
  intro s tr rs
  change step (s.withHistory tr rs) = outcomeWithHistory tr rs (step s)
  cases hp : s.pending with
  | nil => rw [waitsUntilTheHostMoves s hp, waitsUntilTheHostMoves (s.withHistory tr rs) hp]; rfl
  | cons c rest =>
    rw [step_of_pending hp, step_of_pending (s := s.withHistory tr rs) hp]
    exact performCall_withHistory tr rs c { s with pending := rest }

end Sys2Proof.Machine
end

section
/-! PROOFS. The commands and the direct calls (44_command_api.md, 70_reset_and_hazards.md): what each call of the host
does to the record, and that none of these looks at a session. -/

namespace Sys2Proof.Machine

variable {s : State} {ss : Session} {k : Nat}

/-! Calls that look at no session. -/

theorem sendIfValid_withSessions {code : Byte} {T : Descriptor} {p : List Byte} (hl : lookup code = some T)
    (hp : p.length = T.length) (valid answer : Bool) (s : State) (other : List (Option Session)) :
    sendIfValid valid code p answer { s with sessions := other } =
      { sendIfValid valid code p answer s with sessions := other } := by
  cases valid with
  | false => rfl
  | true => rw [sendIfValid_true hl hp, sendIfValid_true hl hp]; rfl

/-- Settles O52: a command is `sendIfValid` and a direct call `give`, and both commute with another list of sessions. -/
theorem callsDoNotDependOnSessions : Obligations.CallsDoNotDependOnSessions := by
  intro s c rest other h hdeliver hoverlap hcreate hdrop
  have hfree : ∃ F : State → State, (∀ s, performCall c s = .next (F s)) ∧
      ∀ s other, F { s with sessions := other } = { F s with sessions := other } := by
    rcases performCall_cases c with ⟨k, bs, hc⟩ | ⟨k, a, b, hc⟩ | ⟨valid, code, T, p, answer, hl, hp, -, hc⟩ | hc |
      ⟨k, hc⟩ | ⟨r, hc⟩
    · exact absurd hc (hdeliver k bs)
    · exact absurd hc (hoverlap k a b)
    · exact ⟨_, hc, sendIfValid_withSessions hl hp valid answer⟩
    · exact absurd hc hcreate
    · exact absurd hc (hdrop k)
    · exact ⟨_, hc, fun _ _ => rfl⟩
  obtain ⟨F, hF, hcomm⟩ := hfree
  refine ⟨_, (step_of_pending h).trans (hF _), ?_, ?_⟩
  · exact (congrArg State.sessions (hcomm { s with pending := rest } s.sessions)).trans rfl
  · rw [step_of_pending (s := { s with sessions := other }) h, hF]
    exact congrArg Host.Outcome.next (hcomm { s with pending := rest } other)

/-- Settles O59: each of the three is `give` of its result. -/
theorem directCallsArePure : Obligations.DirectCallsArePure := by
  intro s rest
  exact ⟨fun c h => step_of_pending h, fun c p h => step_of_pending h, fun f h => step_of_pending h⟩

/-! Validation of the arguments. -/

theorem toolIdValid_iff (id : Int) : toolIdValid id = true ↔ 0 < id ∧ id < 7 := by
  simp [toolIdValid]

theorem alnum_iff (ch : Nat) :
    alnum ch = true ↔ (0x30 ≤ ch ∧ ch ≤ 0x39) ∨ (0x41 ≤ ch ∧ ch ≤ 0x5A) ∨ (0x61 ≤ ch ∧ ch ≤ 0x7A) := by
  simp [alnum, or_assoc]

theorem toolNameValid_iff (emptyOk : Bool) (name : List Nat) :
    toolNameValid emptyOk name = true ↔ (name = [] → emptyOk = true) ∧ ∀ ch ∈ name, alnum ch = true := by
  cases emptyOk <;> simp [toolNameValid]

theorem setToolId_of_valid {id : Int} (h : toolIdValid id = true) (answer : Bool) (s : State) :
    setToolId id answer s = send TypeName.toolId.code (intPayload id) answer s :=
  if_pos h

theorem setToolId_of_invalid {id : Int} (h : ¬ toolIdValid id = true) (answer : Bool) (s : State) :
    setToolId id answer s = s.give (.command (.err .invalidData)) :=
  if_neg h

theorem setToolName_of_valid {emptyOk : Bool} {name : List Nat} (h : toolNameValid emptyOk name = true) (answer : Bool)
    (s : State) : setToolName emptyOk name answer s = send TypeName.toolName.code (pad16 name) answer s :=
  if_pos h

theorem setToolName_of_invalid {emptyOk : Bool} {name : List Nat} (h : ¬ toolNameValid emptyOk name = true)
    (answer : Bool) (s : State) : setToolName emptyOk name answer s = s.give (.command (.err .invalidData)) :=
  if_neg h

/-- Settles O53: the validation is 0 < id < 7, and a valid id is one payload byte. -/
theorem setToolIdValidatesThenTransmits : Obligations.SetToolIdValidatesThenTransmits := by
  intro s id answer rest h
  refine ⟨fun n hid h1 h6 => ?_, fun hout => ?_⟩
  · subst hid
    have hvalid : toolIdValid n = true := (toolIdValid_iff n).2 ⟨by omega, by omega⟩
    rw [step_of_send (p := intPayload n) rfl rfl (fun s => congrArg _ (setToolId_of_valid hvalid answer s)) h,
      intPayload, BitVec.ofInt_natCast]
    rfl
  · have hinvalid : ¬ toolIdValid id = true := by rw [toolIdValid_iff]; omega
    exact (step_of_pending h).trans (congrArg _ (setToolId_of_invalid hinvalid answer _))

/-- Settles O54: the name is valid exactly where every character is a letter or digit and an empty name is allowed. -/
theorem setToolNameValidatesThenTransmits : Obligations.SetToolNameValidatesThenTransmits := by
  intro s name answer rest h
  simp only [← alnum_iff]
  have hfail : ¬ toolNameValid Config.emptyNameOk name = true →
      step s = .next (State.give { s with pending := rest } (.command (.err .invalidData))) :=
    fun hinvalid => (step_of_pending h).trans (congrArg _ (setToolName_of_invalid hinvalid answer _))
  rw [toolNameValid_iff] at hfail
  refine ⟨fun hall hempty => ?_, fun hbad => ?_, fun hnil hno => ?_⟩
  · have hvalid := (toolNameValid_iff Config.emptyNameOk name).2 ⟨hempty, hall⟩
    exact step_of_send rfl (pad16_length name) (fun s => congrArg _ (setToolName_of_valid hvalid answer s)) h
  · obtain ⟨ch, hmem, hch⟩ := hbad
    exact hfail fun hv => hch (hv.2 ch hmem)
  · exact hfail fun hv => Bool.eq_false_iff.1 hno (hv.1 hnil)

/-- An address of `pad16` below the name's length holds the character's code. -/
theorem pad16_getElem?_of_lt {name : List Nat} {i : Nat} (hi : i < 16) (hin : i < name.length) :
    (pad16 name)[i]? = some (BitVec.ofNat 8 name[i]) := by
  simp [pad16, hi, hin]

/-- An address of `pad16` past the name holds the space. -/
theorem pad16_getElem?_of_ge {name : List Nat} {i : Nat} (hi : i < 16) (hin : name.length ≤ i) :
    (pad16 name)[i]? = some Config.PAD := by
  rw [pad16, List.getElem?_append_right (by simp; omega), List.getElem?_replicate_of_lt (by simp; omega)]

/-- Settles O55: below the name's length a character code, which fits a byte, and past it the space. -/
theorem pad16PadsOrTruncates : Obligations.Pad16PadsOrTruncates := by
  intro name hname
  refine ⟨pad16_length name, fun i hi => ?_⟩
  by_cases hin : i < name.length
  · have hfits : name[i] < 256 := by
      have := (alnum_iff _).1 (List.all_eq_true.1 hname _ (List.getElem_mem hin))
      omega
    simp [pad16_getElem?_of_lt hi hin, hin, Nat.mod_eq_of_lt hfits]
  · rw [pad16_getElem?_of_ge hi (Nat.not_lt.1 hin), List.getElem?_eq_none (Nat.not_lt.1 hin)]
    rfl

/-- Settles O57: by the invariant the frame is one of a `dev` type, which DISPATCH drops. -/
theorem echoOfATransmittedFrameIsDropped : Obligations.EchoOfATransmittedFrameIsDropped := by
  intro s f answer k rest hinv hmem hnew h
  have hdev : devFrame f = true := hinv.2 _ hmem
  have hframe : ∃ c T p, f = frameBytes c p ∧ lookup c = some T ∧ p.length = T.length ∧ T.dir = .dev := by
    unfold devFrame at hdev
    split at hdev
    · next T p hd =>
      obtain ⟨c, hf, hl, hp⟩ := (decodeFrame_ok_iff _ _ _).1 hd
      exact ⟨c, T, p, hf, hl, hp, beq_iff_eq.1 hdev⟩
    · cases hdev
  obtain ⟨c, T, p, rfl, hl, hp, hdir⟩ := hframe
  rw [everyDeliveryIsFEEDS s k _ rest Session.new h ⟨hnew, rfl⟩, feeds_frame hl hp, dispatch_dev hdir, State.emit_nil,
    State.setSession_same (s := { s with pending := rest, link := k }) hnew]

/-! The creation and the end of a session. -/

theorem createSession_session?_new (s : State) :
    (createSession s).session? s.sessions.length = some Session.new := by
  simp [createSession, State.session?]

theorem createSession_session?_old (hk : k < s.sessions.length) : (createSession s).session? k = s.session? k := by
  simp [createSession, State.session?, List.getElem?_append_left hk]

theorem session?_dropped (h : s.session? k = some ss) :
    State.session? { s with sessions := s.sessions.set k none } k = none := by
  simp [State.session?, State.lt_of_session? h]

theorem session?_dropped_ne {j : Nat} (hj : j ≠ k) :
    State.session? { s with sessions := s.sessions.set k none } j = s.session? j := by
  simp [State.session?, List.getElem?_set_ne (Ne.symm hj)]

/-- Settles O58: a creation appends a slot, an end empties one, and both leave the other slots. -/
theorem sessionsAreCreatedAndDropped : Obligations.SessionsAreCreatedAndDropped := by
  intro s rest
  refine ⟨fun h => ?_, fun k ss h hss => ?_⟩
  · exact ⟨_, step_of_pending h, createSession_session?_new { s with pending := rest },
      fun k hk => createSession_session?_old (s := { s with pending := rest }) hk, rfl, rfl, rfl, rfl⟩
  · exact ⟨_, (step_of_pending h).trans (dropSession_of_session (s := { s with pending := rest }) hss),
      session?_dropped (s := { s with pending := rest }) hss,
      fun j hj => session?_dropped_ne (s := { s with pending := rest }) hj, rfl, rfl, rfl, rfl⟩

end Sys2Proof.Machine
end
